-- ==== Sys2Proof/Word.lean ====
section
/-!
DEFINITION. The widths the spec works in (00_scope.md section 5.1 and rule R13): bytes, 16-bit words and 64-bit command
words. Their operations stand in Machine/Operands.lean.
-/

namespace Sys2Proof

/-- A byte: 8 bits (00_scope.md section 5.1). -/
abbrev Byte := BitVec 8

/-- A word16: 16 bits (00_scope.md section 5.1). -/
abbrev Word16 := BitVec 16

/-- A command word (30_encoding.md rule R100): 64 bits. -/
abbrev CmdWord := BitVec 64

end Sys2Proof
end

