-- ==== Sys2Proof/Config.lean ====
section
/-!
DEFINITION. The constants of 00_scope.md section 4, the reference values of the instance parameters, and the model's free
values. A free value is an opaque constant: no proof can see what it is, so a theorem holds whatever it is.
-/

namespace Sys2Proof.Config

/-! ### Instance parameters (00_scope.md R9 to R11). The parameters themselves are arguments of the machine (State.params);
these are the values State.reset gives them. -/

/-- Reference value of `C` (R9). -/
def capacity : Nat := 50

/-- Reference value of `MASTER_TIMEOUT_MS` (R10). -/
def masterTimeoutMs : Nat := 1000

/-- `T_DE_SETTLE_US` (R11, 93_implementation_defined.md U11): the spec leaves it OPEN, so it is a free value here. -/
opaque deSettleUs : Nat

/-! ### Constants (parameter table of 00_scope.md section 4) -/

/-- The smallest and largest legal `C` (R9). -/
def capacityMin : Nat := 8
def capacityMax : Nat := 260

/-- The baud rate above which the two durations are fixed, and their fixed values in microseconds (10_state.md R44). -/
def baudKnee : Nat := 19200
def t15FloorUs : Nat := 750
def t35FloorUs : Nat := 1750

/-- Numerators of the timing formulas (10_state.md R44). -/
def k15 : Nat := 15000000
def k35 : Nat := 35000000

/-- Minimum frame lengths (42_validator_dispatcher.md R181). -/
def minLenSlave : Nat := 8
def minLenMaster : Nat := 7

/-- Legal target addresses of MREAD (44_master_requester.md R221). -/
def nodeMin : Nat := 1
def nodeMax : Nat := 254

/-- The CRC's polynomial constant and seed (40_crc16.md R131). -/
def crcPoly : Word16 := 0xA001#16
def crcSeed : Word16 := 0xFFFF#16

/-! ### Free values -/

/-- What byte `i` of the frame buffer holds before anything has written it (10_state.md R50, 93_implementation_defined.md
U10: any value). Log entry 6. -/
opaque unwrittenByte : Nat → Byte

/-- What the host's payload memory holds at an offset the host did not fill (93_implementation_defined.md U19: any value):
draw number, offset. Log entry 7. -/
opaque payloadByte : Nat → Nat → Byte

/-- By how much the clock advances, less one microsecond, when no input is listed (46_config_and_environment.md R266: time
always eventually advances, by a natural number `d >= 1`): draw number. Log entry 2. -/
opaque openTick : Nat → Nat

end Sys2Proof.Config
end

