-- ==== Sys2Proof/Syntax.lean ====
section
/-!
DEFINITION. The instruction set: one constructor per row of spec/opcode_table.json. The first eight rows are command words
(30_encoding.md R100 to R106); the other eight are the classes of received frames that the validator distinguishes
(30_encoding.md R111, 42_validator_dispatcher.md R184 to R188), which run inside POLL (log entry 20).
-/

namespace Sys2Proof

/-- The three cases of the address comparison (42_validator_dispatcher.md R184). -/
inductive WireCase where
  | own
  | awaited
  | foreign
  deriving DecidableEq, Repr

/-- The rows of the opcode table, with the operands their fields give. -/
inductive Instr where
  /-- CONFIG `baud, addr, de_present` (46_config_and_environment.md R265). -/
  | config (baud : BitVec 32) (addr : Byte) (dePresent : Bool)
  /-- POLL (41_frame_assembler.md R150). -/
  | poll
  /-- SEND_ERR `fc, kind` (43_slave_responder.md R201). -/
  | sendErr (fc kind : Byte)
  /-- SEND_RSP `fc, length, offset` (43_slave_responder.md R205). -/
  | sendRsp (fc length : Byte) (offset : Word16)
  /-- MREAD `node, fc, start, count` (44_master_requester.md R220). -/
  | mread (node fc : Byte) (start count : Word16)
  /-- MFETCH `n` (44_master_requester.md R227). -/
  | mfetch (n : Word16)
  /-- CRC `n` (40_crc16.md R135). -/
  | crc (n : Word16)
  /-- RESERVED_OP: any command word that none of the seven formats admits (30_encoding.md R106). -/
  | reservedOp (w : CmdWord)
  /-- Case OWN, function 3, from address byte `a` (42_validator_dispatcher.md R185). -/
  | wireReqReadHolding (a : Byte)
  /-- Case OWN, function 4 (R185). -/
  | wireReqReadInput (a : Byte)
  /-- Case OWN, any other function byte `f` (R186). -/
  | wireReqOther (a f : Byte)
  /-- Case AWAITED, function 3 (R187). -/
  | wireRspReadHolding (a : Byte)
  /-- Case AWAITED, function 4 (R187). -/
  | wireRspReadInput (a : Byte)
  /-- Case AWAITED, function byte `f` with bit 7 set (R187). -/
  | wireExc (a f : Byte)
  /-- Case AWAITED, any other function byte `f` (R187). -/
  | wireRspOther (a f : Byte)
  /-- Case FOREIGN, whatever the function byte `f` (R188). -/
  | wireForeign (a f : Byte)
  deriving DecidableEq, Repr

end Sys2Proof
end

