-- ==== Sys2Proof/Machine/State.lean ====
section
/-!
DEFINITION. The state of the system (10_state.md): block state, transport state and host memory, with the model's own
fields for the instance parameters, the inputs and the draws of free values. The table of INVENTORY.md gives each field's
rule and reset value. Faults and refusals stand here too.
-/

namespace Sys2Proof.Machine

/-- A byte-addressed memory as the list of its written bytes, addresses strictly rising (`Memory.wf`, Machine/Ops.lean). An
address not listed holds no value of its own; each space says what a read of it gives (log entries 6, 7, 8). -/
abbrev Memory := List Host.Cell

/-- The instance parameters (00_scope.md R9 to R11), fixed for one instance: no step writes them (log entry 9). -/
structure Params where
  /-- `C`, the capacity of the frame buffer in bytes (R9). -/
  capacity : Nat
  /-- `MASTER_TIMEOUT_MS` (R10). -/
  masterTimeoutMs : Nat
  /-- `T_DE_SETTLE_US` (R11). -/
  deSettleUs : Nat
  deriving DecidableEq, Repr

/-- An exact duration of `num / den` microseconds (10_state.md R44). -/
structure Duration where
  num : Nat
  den : Nat
  deriving DecidableEq, Repr

/-- The transmission controller's states (10_state.md R27). -/
inductive Txc where
  | idle
  | waitSilence
  | deSettle
  | active
  deriving DecidableEq, Repr

/-- The command whose send waits for its hand-off (45_transmission_controller.md R241, R246). -/
inductive Starter where
  | sendErr
  | sendRsp
  | mread
  /-- A POLL's automatic error response (42_validator_dispatcher.md R186). -/
  | poll
  deriving DecidableEq, Repr

/-- The status codes of POLL, by name (30_encoding.md R105); the numbers are `PollStatus.code`. -/
inductive PollStatus where
  | noFrames
  | frameReceiving
  | frameReceived
  | frameSending
  | frameSent
  | masterReceived
  | masterError
  | errOverflow
  | errCorrupted
  | errCrcFailed
  | errIllegalFunction
  deriving DecidableEq, Repr

/-- What the host or the environment does next (46_config_and_environment.md R260). -/
inductive Input where
  /-- The host presents a command word, with its payload memory beside it (R261). -/
  | command (w : CmdWord) (payload : Memory)
  /-- Event RX_BYTE (R263). -/
  | rxByte (b : Byte)
  /-- Event TX_DONE (R264). -/
  | txDone
  /-- Event TICK `d` (R266). -/
  | tick (d : Nat)
  /-- Reset (70_reset_and_hazards.md R330), with the receive FIFO and the clock value that the environment has then
  (10_state.md R50, E0 and E3: any). -/
  | reset (fifo : List Byte) (now : Nat)
  deriving DecidableEq, Repr

/-- The state of the system, the spec's elements by the spec's names (10_state.md R50). -/
structure State where
  /-- The instance parameters. -/
  params : Params
  /-- S0 (R40). -/
  configured : Bool
  /-- S1 (R41). -/
  baud : BitVec 32
  /-- S2 (R42). -/
  myAddr : Byte
  /-- S3 (R43). -/
  dePresent : Bool
  /-- S4, the inter-character timeout (R44). -/
  t15 : Duration
  /-- S4, the inter-frame delay (R44). -/
  t35 : Duration
  /-- S5, the frame buffer (R23). -/
  buf : Memory
  /-- S6, the number of valid bytes in `buf` (R24). -/
  len : Nat
  /-- S7 (R25). -/
  outFunc : Byte
  /-- S8 (R25). -/
  outStart : Word16
  /-- S9 (R25). -/
  outCount : Word16
  /-- S10 (R27). -/
  txc : Txc
  /-- S11 (R28). -/
  rxActive : Bool
  /-- S12 (R29). -/
  overflow : Bool
  /-- S13 (R30). -/
  awaitValid : Bool
  /-- S14 (R30). -/
  awaitAddr : Byte
  /-- S15 (R31). -/
  respAvail : Bool
  /-- S16, the direction-control output (R32). -/
  de : Bool
  /-- S17 (R36). -/
  tLastUs : Nat
  /-- S18 (R37). -/
  tDeUs : Nat
  /-- S19 (R38). -/
  tReqMs : Nat
  /-- The command in progress while a send waits (45_transmission_controller.md R241, R246; log entry 11). -/
  starter : Option Starter
  /-- Response field `rsp_ok` (30_encoding.md R104). -/
  rspOk : Bool
  /-- Response field `rsp_status` (R104). -/
  rspStatus : BitVec 4
  /-- Response field `rsp_value` (R104). -/
  rspValue : Word16
  /-- Host payload memory (20_memory.md R66). -/
  pl : Memory
  /-- Host destination memory (20_memory.md R66). -/
  dst : Memory
  /-- E0, oldest byte first (R46). -/
  rxFifo : List Byte
  /-- E1 (R47). -/
  txBusy : Bool
  /-- E1 (R47). -/
  txComplete : Bool
  /-- E2 (R47). -/
  txLog : List Byte
  /-- E3 (R48). -/
  nowUs : Nat
  /-- The model's own: what the host and the environment do next, in order (log entry 1). -/
  inputs : List Input
  /-- The model's own: how many free values have been drawn (log entries 2 and 7). -/
  draws : Nat
  deriving DecidableEq, Repr

/-- What stops the machine with a fault. The block itself never traps (60_exceptions.md R290). -/
inductive Fault where
  /-- An access to `buf[i]` with `i >= C`, which the spec says never happens (20_memory.md R62). Raised by `State.guardBuf`.
  Safe: the machine stops; no state that meets `Inv` reaches it (log entry 17). -/
  | bufferOutOfBounds
  deriving DecidableEq, Repr

/-- What the model has no step for. -/
inductive Refusal where
  /-- An instruction that has no meaning yet, by its mnemonic: raised by `exec` only. Safe. -/
  | notModelled (mnemonic : String)
  /-- Any command but CONFIG before the first CONFIG (10_state.md R40, 93_implementation_defined.md U1). Raised by POLL,
  SEND_ERR, SEND_RSP, MREAD, MFETCH and CRC. Safe. -/
  | notConfigured
  /-- CONFIG with `baud = 0` (46_config_and_environment.md R265, U7). Raised by CONFIG. Safe. -/
  | configBaudZero
  /-- CONFIG while `txc` is not TXC_IDLE (R265, U7). Raised by CONFIG. Safe. -/
  | configWhileSending
  /-- SEND_ERR or SEND_RSP with `sending = 0` and `rx_active = 1` (43_slave_responder.md R200, U4). Safe. -/
  | sendWhileReceiving
  /-- MFETCH while sending (44_master_requester.md R229, U7). Safe. -/
  | fetchWhileSending
  /-- CRC while sending (40_crc16.md R135, U7). Safe. -/
  | crcWhileSending
  /-- CRC `n` with `n > len` (40_crc16.md R135, U3). Safe. -/
  | crcBeyondLen
  /-- TX_DONE with `tx_busy = 0` (46_config_and_environment.md R264) or TICK 0 (R266): no such event can occur. Raised by
  the environment's events, not by an instruction. Safe (log entry 15). -/
  | eventNotEnabled
  deriving DecidableEq, Repr

/-- The outcome of a step of this machine. -/
abbrev Result := Host.Outcome State Fault Refusal

/-- The state right after reset (10_state.md R50, 70_reset_and_hazards.md R330): the values of the *reset* column; where that
says "unspecified" or "environment's", the value log entry 5 names; nothing in any memory (log entries 6, 7, 8). -/
def State.reset : State where
  params := ⟨Config.capacity, Config.masterTimeoutMs, Config.deSettleUs⟩
  configured := false
  baud := 0#32
  myAddr := 0#8
  dePresent := false
  t15 := ⟨0, 1⟩
  t35 := ⟨0, 1⟩
  buf := []
  len := 0
  outFunc := 0#8
  outStart := 0#16
  outCount := 0#16
  txc := .idle
  rxActive := false
  overflow := false
  awaitValid := false
  awaitAddr := 0#8
  respAvail := false
  de := false
  tLastUs := 0
  tDeUs := 0
  tReqMs := 0
  starter := none
  rspOk := false
  rspStatus := 0#4
  rspValue := 0#16
  pl := []
  dst := []
  rxFifo := []
  txBusy := false
  txComplete := false
  txLog := []
  nowUs := 0
  inputs := []
  draws := 0

end Sys2Proof.Machine
end

