-- ==== Sys2Proof/Machine/Operands.lean ====
section
/-!
DEFINITION. Operand forms: the byte and word16 operations of 00_scope.md section 5.1 and 47_common_semantics.md R271, the
operand checks of the commands, the bytes of the three frame formats before their CRC field (30_encoding.md R91), and the
two durations that CONFIG derives from the baud rate (10_state.md R44).
-/

namespace Sys2Proof.Machine

/-! ### Bytes and words -/

/-- `hi8(w) = w[15:8]`. -/
def hi8 (w : Word16) : Byte := w.extractLsb' 8 8

/-- `lo8(w) = w[7:0]`. -/
def lo8 (w : Word16) : Byte := w.extractLsb' 0 8

/-- `cat(a, b) = a*256 + b`: `a` is the high byte. -/
def cat (a b : Byte) : Word16 := a ++ b

/-- `swap16(w) = cat(lo8(w), hi8(w))`. -/
def swap16 (w : Word16) : Word16 := cat (lo8 w) (hi8 w)

/-! ### Function codes, error kinds and arguments -/

/-- The two function codes that are served (30_encoding.md R92). -/
def servedFunction (fc : Byte) : Bool := fc == 3#8 || fc == 4#8

/-- An error response's function byte (30_encoding.md R92, 43_slave_responder.md R203). -/
def errorFunction (fc : Byte) : Byte := fc ||| 0x80#8

/-- The exception byte of an error kind, none for a kind that is rejected (43_slave_responder.md R201, R202). -/
def exceptionByte (kind : Byte) : Option Byte :=
  if kind = 1#8 then some 0x01#8 else if kind = 2#8 then some 0x02#8 else none

/-- MREAD's arguments are valid for a buffer of capacity `C` (44_master_requester.md R221), in unbounded naturals. -/
def mreadArgsValid (capacity : Nat) (node fc : Byte) (count : Word16) : Bool :=
  decide (Config.nodeMin ≤ node.toNat) && decide (node.toNat ≤ Config.nodeMax) && servedFunction fc
    && decide (count.toNat ≠ 0) && decide (count.toNat * 2 + 5 ≤ capacity)

/-! ### Frames before their CRC field -/

/-- The error response of node `addr` (43_slave_responder.md R203). -/
def errorBody (addr fc x : Byte) : List Byte := [addr, errorFunction fc, x]

/-- The normal response of node `addr` (43_slave_responder.md R207): the byte-count field is `length`. -/
def responseBody (addr fc length : Byte) (payload : List Byte) : List Byte := addr :: fc :: length :: payload

/-- The read request to node `node` (44_master_requester.md R224): 16-bit fields high byte first (30_encoding.md R93). -/
def requestBody (node fc : Byte) (start count : Word16) : List Byte :=
  [node, fc, hi8 start, lo8 start, hi8 count, lo8 count]

/-! ### Durations -/

/-- `T15` of a baud rate (10_state.md R44). -/
def durationT15 (baud : BitVec 32) : Duration :=
  if baud.toNat ≤ Config.baudKnee then ⟨Config.k15, baud.toNat⟩ else ⟨Config.t15FloorUs, 1⟩

/-- `T35` of a baud rate (10_state.md R44). -/
def durationT35 (baud : BitVec 32) : Duration :=
  if baud.toNat ≤ Config.baudKnee then ⟨Config.k35, baud.toNat⟩ else ⟨Config.t35FloorUs, 1⟩

/-- `e < T` for a natural number `e` of microseconds, by cross-multiplication (10_state.md R45). -/
def Duration.notElapsed (t : Duration) (e : Nat) : Bool := decide (e * t.den < t.num)

end Sys2Proof.Machine
end

