-- ==== Sys2Proof/Machine/Flags.lean ====
section
/-!
DEFINITION. Every condition that the rules compute from the state: the derived flags, the four timers (60_exceptions.md
R302), the minimum frame length and the case of the address comparison. None of them writes anything.
-/

namespace Sys2Proof.Machine

/-- `sending = (txc != TXC_IDLE)` (10_state.md R27). -/
def State.sending (s : State) : Bool := decide (s.txc ≠ .idle)

/-- The command interface is busy: a send waits for silence or for the driver to settle (46_config_and_environment.md R261). -/
def State.waiting (s : State) : Bool := decide (s.txc = .waitSilence ∨ s.txc = .deSettle)

/-- `rx_avail()` (10_state.md R46). -/
def State.rxAvail (s : State) : Bool := !s.rxFifo.isEmpty

/-- `now_ms = now_us div 1000` (10_state.md R48). -/
def State.nowMs (s : State) : Nat := s.nowUs / 1000

/-- Time since the poll that read the last byte (10_state.md R36). -/
def State.sinceLast (s : State) : Nat := s.nowUs - s.tLastUs

/-- The inter-character timer runs: `now_us - t_last_us < T15` (41_frame_assembler.md R155). -/
def State.withinT15 (s : State) : Bool := s.t15.notElapsed s.sinceLast

/-- The inter-frame timer runs: `now_us - t_last_us < T35` (45_transmission_controller.md R242). -/
def State.withinT35 (s : State) : Bool := s.t35.notElapsed s.sinceLast

/-- The driver has not settled: `now_us - t_de_us < T_DE_SETTLE_US` (45_transmission_controller.md R245). -/
def State.settling (s : State) : Bool := decide (s.nowUs - s.tDeUs < s.params.deSettleUs)

/-- The outstanding request has expired: strictly more than MASTER_TIMEOUT_MS has passed (41_frame_assembler.md R152). -/
def State.masterExpired (s : State) : Bool :=
  s.awaitValid && decide (s.nowMs - s.tReqMs > s.params.masterTimeoutMs)

/-- The minimum length of a frame (42_validator_dispatcher.md R181). -/
def State.minLen (s : State) : Nat := if s.awaitValid then Config.minLenMaster else Config.minLenSlave

/-- The case of a frame with address byte `a` (42_validator_dispatcher.md R184): the three tests in order. -/
def State.wireCase (s : State) (a : Byte) : WireCase :=
  if a = s.myAddr ∧ s.awaitValid = false then .own
  else if s.awaitValid = true ∧ a = s.awaitAddr then .awaited
  else .foreign

end Sys2Proof.Machine
end

