-- ==== Sys2Proof/Machine/Ops.lean ====
section
/-!
DEFINITION. The shared operations: byte memories, the frame buffer, `crc16`, the response fields, the marker, the receive
path, the transport primitives (46_config_and_environment.md R262) and building and starting a frame. The block has no
exceptions (60_exceptions.md R290, R298): in the place of "taking an exception" stand `State.respond`, by which every error
is reported, and `State.sendFrame`, which a POLL performs inside itself for the automatic error response.
-/

namespace Sys2Proof.Machine

/-! ### Byte memories -/

/-- The canonical form: addresses strictly rising. An unlisted address holds no value, so no entry can equal one. -/
abbrev Memory.wf (m : Memory) : Prop := m.Pairwise (fun p q => p.1 < q.1)

/-- The byte written at an address, if any. -/
def Memory.read? : Memory → Nat → Option Byte
  | [], _ => none
  | (k, v) :: m, a => if a = k then some v else Memory.read? m a

/-- Write one byte, keeping the canonical form. -/
def Memory.write : Memory → Nat → Byte → Memory
  | [], a, v => [(a, v)]
  | (k, x) :: m, a, v =>
    if a < k then (a, v) :: (k, x) :: m
    else if a = k then (a, v) :: m
    else (k, x) :: Memory.write m a v

/-- Write bytes at rising addresses from `a` (20_memory.md R66). -/
def Memory.writeBytes : Memory → Nat → List Byte → Memory
  | m, _, [] => m
  | m, a, b :: bs => Memory.writeBytes (Memory.write m a b) (a + 1) bs

/-! ### The frame buffer -/

/-- `buf[i]`. A byte that nothing has written is an open value (10_state.md R50; log entry 6). -/
def State.bufByte (s : State) (i : Nat) : Byte := (s.buf.read? i).getD (Config.unwrittenByte i)

/-- The `n` bytes `buf[a], ..., buf[a+n-1]`. -/
def State.bufBytes (s : State) (a n : Nat) : List Byte := (List.range' a n).map s.bufByte

/-- `cat(buf[i], buf[i+1])`: a 16-bit field, high byte first (20_memory.md R64). -/
def State.bufWord (s : State) (i : Nat) : Word16 := cat (s.bufByte i) (s.bufByte (i + 1))

/-- Write bytes into the frame buffer from index `a`. -/
def State.putBytes (s : State) (a : Nat) (bs : List Byte) : State := { s with buf := s.buf.writeBytes a bs }

/-- Go on with `k` when every index below `n` exists; `buf[i]` with `i >= C` does not (20_memory.md R62; log entry 17). -/
def State.guardBuf (s : State) (n : Nat) (k : Result) : Result :=
  if n ≤ s.params.capacity then k else .fault .bufferOutOfBounds

/-! ### The CRC-16 calculator (40_crc16.md) -/

/-- One shift step of R132: the tested bit is bit 0 before the logical right shift. -/
def crcShift (r : Word16) : Word16 := if r.getLsbD 0 then (r >>> 1) ^^^ Config.crcPoly else r >>> 1

/-- `k` shift steps. -/
def crcShifts : Nat → Word16 → Word16
  | 0, r => r
  | k + 1, r => crcShifts k (crcShift r)

/-- `crc_byte(r, b)` (R132): the byte enters the low half, then eight shift steps. -/
def crcByte (r : Word16) (b : Byte) : Word16 := crcShifts 8 (r ^^^ b.setWidth 16)

/-- The raw CRC of a byte sequence (R133): the running register after the loop. -/
def crcRaw (bs : List Byte) : Word16 := bs.foldl crcByte Config.crcSeed

/-- The CRC output of a byte sequence (R133): the raw CRC with its bytes swapped. -/
def crcOutput (bs : List Byte) : Word16 := swap16 (crcRaw bs)

/-- `crc16(n)` (R133): the CRC output of `buf[0..n)`. -/
def State.crc16 (s : State) (n : Nat) : Word16 := crcOutput (s.bufBytes 0 n)

/-! ### Responses (30_encoding.md R104, R105) -/

/-- The numbers of the status codes (R105). -/
def PollStatus.code : PollStatus → BitVec 4
  | .noFrames => 0#4
  | .frameReceiving => 1#4
  | .frameReceived => 2#4
  | .frameSending => 3#4
  | .frameSent => 4#4
  | .masterReceived => 5#4
  | .masterError => 6#4
  | .errOverflow => 7#4
  | .errCorrupted => 8#4
  | .errCrcFailed => 9#4
  | .errIllegalFunction => 10#4

/-- Deliver the three response fields (R104). -/
def State.respond (s : State) (ok : Bool) (status : BitVec 4) (value : Word16) : State :=
  { s with rspOk := ok, rspStatus := status, rspValue := value }

/-- `return <status>` of POLL: `rsp_ok` is always 1 (41_frame_assembler.md R150). -/
def State.returnStatus (s : State) (p : PollStatus) : State := s.respond true p.code 0#16

/-- `return FAIL`: a boolean failure, without any other effect (60_exceptions.md R293). -/
def State.returnFail (s : State) : State := s.respond false 0#4 0#16

/-- `return OK` with a value (30_encoding.md R104). -/
def State.returnValue (s : State) (v : Word16) : State := s.respond true 0#4 v

/-! ### Flags, marker and the receive path -/

/-- Clear the outstanding-request marker (10_state.md R30): `await_addr` and `t_req_ms` keep their values. -/
def State.clearMarker (s : State) : State := { s with awaitValid := false }

/-- Set the outstanding-request marker (44_master_requester.md R225). -/
def State.setMarker (s : State) (node : Byte) : State :=
  { s with awaitValid := true, awaitAddr := node, tReqMs := s.nowMs }

/-- Write `resp_avail` (10_state.md R31). -/
def State.setRespAvail (s : State) (b : Bool) : State := { s with respAvail := b }

/-- Clear the receiving flag (41_frame_assembler.md R160). -/
def State.endReceive (s : State) : State := { s with rxActive := false }

/-- The first byte of a new frame (41_frame_assembler.md R156): the bytes of `buf` are not erased. -/
def State.beginFrame (s : State) : State :=
  { s with len := 0, overflow := false, respAvail := false, rxActive := true }

/-- Append one received byte, or drop it and set the overflow flag when `len = C` (41_frame_assembler.md R157). -/
def State.appendByte (s : State) (b : Byte) : State :=
  if s.len < s.params.capacity then { s with buf := s.buf.write s.len b, len := s.len + 1 }
  else { s with overflow := true }

/-- `while rx_avail(): b <- rx_read(); append b` (41_frame_assembler.md R157) over the queued bytes, oldest first. -/
def State.drain : State → List Byte → State
  | s, [] => { s with rxFifo := [] }
  | s, b :: bs => State.drain (State.appendByte { s with rxFifo := bs } b) bs

/-- Record the time of the poll that read bytes (41_frame_assembler.md R158). -/
def State.stampLast (s : State) : State := { s with tLastUs := s.nowUs }

/-! ### Transport primitives (46_config_and_environment.md R262) -/

/-- `rx_flush()`. -/
def State.rxFlush (s : State) : State := { s with rxFifo := [] }

/-- `tx_write(bs)`. -/
def State.txWrite (s : State) (bs : List Byte) : State :=
  { s with txBusy := true, txComplete := false, txLog := s.txLog ++ bs }

/-- `de <- b`. -/
def State.setDe (s : State) (b : Bool) : State := { s with de := b }

/-- `txc <- t`. -/
def State.setTxc (s : State) (t : Txc) : State := { s with txc := t }

/-! ### Host payload memory -/

/-- `MemRead(pl, offset, n)` (20_memory.md R66): ascending addresses, no bounds check; a byte the host did not fill is a free
value (93_implementation_defined.md U19; log entry 7). -/
def State.payload (s : State) (offset n : Nat) : List Byte :=
  (List.range' offset n).map (fun a => (s.pl.read? a).getD (Config.payloadByte s.draws a))

/-- Use up one draw of free values. -/
def State.draw (s : State) : State := { s with draws := s.draws + 1 }

/-! ### Building and starting a frame -/

/-- Write a frame: the bytes before the CRC field from index 0, then `crc16` over the bytes just written, high byte first
(30_encoding.md R94), and `len` (43_slave_responder.md R203, R207; 44_master_requester.md R224). -/
def State.buildFrame (s : State) (body : List Byte) : State :=
  let written := s.putBytes 0 body
  let k := written.crc16 body.length
  { written.putBytes body.length [hi8 k, lo8 k] with len := body.length + 2 }

/-- TXC_START (45_transmission_controller.md R241): the command that starts the send stays in progress. -/
def State.startSend (s : State) (who : Starter) : State := { s with txc := .waitSilence, starter := some who }

/-- Build a frame and start the transmission controller. The command returns at the hand-off (R246), so no response is
delivered here. -/
def State.sendFrame (s : State) (who : Starter) (body : List Byte) : Result :=
  s.guardBuf (body.length + 2) (.next ((s.buildFrame body).startSend who))

end Sys2Proof.Machine
end

