-- ==== Sys2Proof/Machine/Configure.lean ====
section
/-!
DEFINITION. CONFIG (46_config_and_environment.md R265) and the reserved command words (30_encoding.md R106).
-/

namespace Sys2Proof.Machine

/-- Write the configuration registers (R265). -/
def State.setConfig (s : State) (baud : BitVec 32) (addr : Byte) (dePresent : Bool) : State :=
  { s with
    configured := true, baud := baud, myAddr := addr, dePresent := dePresent
    t15 := durationT15 baud, t35 := durationT35 baud }

/-- Put the engine into its reset values as CONFIG lists them (R265); `rx_fifo` is not flushed. -/
def State.resetEngine (s : State) : State :=
  { s with
    len := 0, rxActive := false, overflow := false, awaitValid := false, respAvail := false
    txc := .idle, de := false, tLastUs := 0 }

/-- CONFIG `baud, addr, de_present` (R265). -/
def execConfig (baud : BitVec 32) (addr : Byte) (dePresent : Bool) (s : State) : Result :=
  if baud = 0#32 then .refused .configBaudZero
  else if s.txc ≠ .idle then .refused .configWhileSending
  else .next ((s.setConfig baud addr dePresent).resetEngine.returnValue 0#16)

/-- A reserved command word `w` (30_encoding.md R106): the block answers `rsp_ok = 0`, `rsp_status = 0`, `rsp_value = 0` and
changes no state (log entry 10). -/
def execReservedOp (_w : CmdWord) (s : State) : Result :=
  .next s.returnFail

end Sys2Proof.Machine
end

