-- ==== Sys2Proof/Machine/Crc.lean ====
section
/-!
DEFINITION. The CRC command (40_crc16.md R135). The function itself is `State.crc16` (Machine/Ops.lean).
-/

namespace Sys2Proof.Machine

/-- CRC `n` (R135): no state is written but the response. -/
def execCrc (n : Word16) (s : State) : Result :=
  if s.configured = false then .refused .notConfigured
  else if s.sending then .refused .crcWhileSending
  else if n.toNat > s.len then .refused .crcBeyondLen
  else s.guardBuf n.toNat (.next (s.returnValue (s.crc16 n.toNat)))

end Sys2Proof.Machine
end

