-- ==== Sys2Proof/Machine/Master.lean ====
section
/-!
DEFINITION. The master requester: MREAD and MFETCH (44_master_requester.md).
-/

namespace Sys2Proof.Machine

/-- MREAD `node, fc, start, count` (R220 to R226): a rejected request has no effect, not even the flush (R222). -/
def execMread (node fc : Byte) (start count : Word16) (s : State) : Result :=
  if s.configured = false then .refused .notConfigured
  else if mreadArgsValid s.params.capacity node fc count = false ∨ s.rxActive = true ∨ s.sending = true then
    .next s.returnFail
  else (s.rxFlush.setMarker node).sendFrame .mread (requestBody node fc start count)

/-- MFETCH `n` (R227 to R229): the payload is copied when its length `p = len - 5` fits the budget and is the declared
byte-count; otherwise nothing is copied and the value is 0. -/
def execMfetch (n : Word16) (s : State) : Result :=
  if s.configured = false then .refused .notConfigured
  else if s.sending then .refused .fetchWhileSending
  else if s.respAvail = false then .next (s.returnValue 0#16)
  else
    let p := s.len - 5
    s.guardBuf (3 + p)
      (if p ≤ n.toNat ∧ p = (s.bufByte 2).toNat then
        .next ({ s with dst := s.dst.writeBytes 0 (s.bufBytes 3 p) }.returnValue (BitVec.ofNat 16 p))
      else .next (s.returnValue 0#16))

end Sys2Proof.Machine
end

