-- ==== Sys2Proof/Machine/Slave.lean ====
section
/-!
DEFINITION. The slave responder: SEND_ERR and SEND_RSP (43_slave_responder.md).
-/

namespace Sys2Proof.Machine

/-- The error response that SEND_ERR and the automatic error response send (43_slave_responder.md R203, R204). -/
def State.sendErrorFrame (s : State) (who : Starter) (fc x : Byte) : Result :=
  (s.setRespAvail false).sendFrame who (errorBody s.myAddr fc x)

/-- PRECHECK (R200), then the command's own part. -/
def State.slavePrecheck (s : State) (k : Result) : Result :=
  if s.configured = false then .refused .notConfigured
  else if s.sending then .next s.returnFail
  else if s.rxActive then .refused .sendWhileReceiving
  else k

/-- SEND_ERR `fc, kind` (R201 to R204): a kind other than 1 and 2 fails without effect (R202). -/
def execSendErr (fc kind : Byte) (s : State) : Result :=
  s.slavePrecheck
    (match exceptionByte kind with
    | none => .next s.returnFail
    | some x => s.sendErrorFrame .sendErr fc x)

/-- SEND_RSP `fc, length, offset` with the payload memory `pl` (R205 to R208). -/
def execSendRsp (fc length : Byte) (offset : Word16) (s : State) : Result :=
  s.slavePrecheck
    (if servedFunction fc = false then .next s.returnFail
    else if 3 + length.toNat + 2 > s.params.capacity then .next s.returnFail
    else (s.draw.setRespAvail false).sendFrame .sendRsp
      (responseBody s.myAddr fc length (s.payload offset.toNat length.toNat)))

end Sys2Proof.Machine
end

