-- ==== Sys2Proof/Machine/Validator.lean ====
section
/-!
DEFINITION. The frame validator and dispatcher (42_validator_dispatcher.md): the checks V0 and V1, the choice of the case
and the meaning of each wire-frame class. POLL runs it on a completed frame `buf[0..len)`, in the same atomic step.
-/

namespace Sys2Proof.Machine

/-! ### Shared operations of the cases -/

/-- Case OWN, function code `f` of 3 or 4 (R185): the result registers, FRAME_RECEIVED. The frame's bytes 2 to 5 are read. -/
def State.receiveRequest (s : State) (f : Byte) : Result :=
  s.guardBuf 6
    (.next ({ s with outFunc := f, outStart := s.bufWord 2, outCount := s.bufWord 4 }.returnStatus .frameReceived))

/-- Case AWAITED, function code 3 or 4 (R187). -/
def State.receiveResponse (s : State) : Result :=
  .next ((s.clearMarker.setRespAvail true).returnStatus .masterReceived)

/-- Case AWAITED, any other function code (R187). -/
def State.receiveException (s : State) : Result :=
  .next (s.clearMarker.returnStatus .masterError)

/-! ### The classes -/

/-- WIRE_REQ_READ_HOLDING (R185). -/
def execWireReqReadHolding (_a : Byte) (s : State) : Result := s.receiveRequest 3#8

/-- WIRE_REQ_READ_INPUT (R185). -/
def execWireReqReadInput (_a : Byte) (s : State) : Result := s.receiveRequest 4#8

/-- WIRE_REQ_OTHER_FUNCTION (R186): SEND_ERR `f, 1` is performed; its preconditions hold where POLL comes here. The POLL
returns ERR_ILLEGAL_FUNCTION at the hand-off. -/
def execWireReqOther (_a f : Byte) (s : State) : Result := s.sendErrorFrame .poll f 0x01#8

/-- WIRE_RSP_READ_HOLDING (R187). -/
def execWireRspReadHolding (_a : Byte) (s : State) : Result := s.receiveResponse

/-- WIRE_RSP_READ_INPUT (R187). -/
def execWireRspReadInput (_a : Byte) (s : State) : Result := s.receiveResponse

/-- WIRE_EXC (R187). -/
def execWireExc (_a _f : Byte) (s : State) : Result := s.receiveException

/-- WIRE_RSP_OTHER_FUNCTION (R187). -/
def execWireRspOther (_a _f : Byte) (s : State) : Result := s.receiveException

/-- WIRE_FOREIGN (R188): no effect, NO_FRAMES. -/
def execWireForeign (_a _f : Byte) (s : State) : Result := .next (s.returnStatus .noFrames)

/-! ### The chain -/

/-- V2 (R184): the case from the address byte and the marker, then the rows of the case in file order (30_encoding.md R111). -/
def State.dispatchFrame (s : State) : Result :=
  let a := s.bufByte 0
  let f := s.bufByte 1
  match s.wireCase a with
  | .own =>
    if f = 3#8 then execWireReqReadHolding a s
    else if f = 4#8 then execWireReqReadInput a s
    else execWireReqOther a f s
  | .awaited =>
    if f = 3#8 then execWireRspReadHolding a s
    else if f = 4#8 then execWireRspReadInput a s
    else if f.msb then execWireExc a f s
    else execWireRspOther a f s
  | .foreign => execWireForeign a f s

/-- The trailing two bytes of the frame, high byte first (R183). -/
def State.claimedCrc (s : State) : Word16 := s.bufWord (s.len - 2)

/-- VALIDATE (R180): length (R182), CRC (R183), dispatch (R184), the first that decides. -/
def State.validate (s : State) : Result :=
  if s.len < s.minLen then .next (s.clearMarker.returnStatus .errCorrupted)
  else s.guardBuf s.len
    (if s.claimedCrc ≠ s.crc16 (s.len - 2) then .next (s.clearMarker.returnStatus .errCrcFailed)
    else s.dispatchFrame)

end Sys2Proof.Machine
end

