-- ==== Sys2Proof/Machine/Poll.lean ====
section
/-!
DEFINITION. The frame assembler and POLL (41_frame_assembler.md): the chain B1 to B4 of R150, evaluated once, the first
branch whose condition holds.
-/

namespace Sys2Proof.Machine

/-- Branch B1: a transmission is in progress (R151). -/
def State.pollSending (s : State) : State :=
  if s.txComplete then
    ((if s.dePresent then s.setDe false else s).setTxc .idle).returnStatus .frameSent
  else s.returnStatus .frameSending

/-- Branch B2: the master request has timed out (R152); the status is the spec's decision D10 (log entry 16). -/
def State.pollExpired (s : State) : State :=
  s.clearMarker.returnStatus (if s.rxActive then .frameReceiving else .noFrames)

/-- Frame-complete processing (R160). -/
def State.completeFrame (s : State) : Result :=
  if s.overflow then .next (s.endReceive.returnStatus .errOverflow) else s.endReceive.validate

/-- Branch B3: no byte is available (R153 to R155, R159). -/
def State.pollSilent (s : State) : Result :=
  if s.rxActive = false then .next (s.returnStatus .noFrames)
  else if s.withinT15 then .next (s.returnStatus .frameReceiving)
  else s.completeFrame

/-- Branch B4: bytes are available (R156 to R158). -/
def State.pollReceive (s : State) : State :=
  let begun := if s.rxActive then s else s.beginFrame
  ((begun.drain s.rxFifo).stampLast).returnStatus .frameReceiving

/-- POLL (R150). -/
def execPoll (s : State) : Result :=
  if s.configured = false then .refused .notConfigured
  else if s.sending then .next s.pollSending
  else if s.masterExpired then .next s.pollExpired
  else if s.rxAvail = false then s.pollSilent
  else .next s.pollReceive

end Sys2Proof.Machine
end

