-- ==== Sys2Proof/Machine/Dispatch.lean ====
section
/-! DEFINITION. One arm per instruction: each calls the meaning of its row of spec/opcode_table.json. -/

namespace Sys2Proof.Machine

def exec (i : Instr) (s : State) : Host.Outcome State Fault Refusal :=
  match i with
  | .config baud addr dePresent => Sys2Proof.Machine.execConfig baud addr dePresent s
  | .poll => Sys2Proof.Machine.execPoll s
  | .sendErr fc kind => Sys2Proof.Machine.execSendErr fc kind s
  | .sendRsp fc length offset => Sys2Proof.Machine.execSendRsp fc length offset s
  | .mread node fc start count => Sys2Proof.Machine.execMread node fc start count s
  | .mfetch n => Sys2Proof.Machine.execMfetch n s
  | .crc n => Sys2Proof.Machine.execCrc n s
  | .reservedOp w => Sys2Proof.Machine.execReservedOp w s
  | .wireReqReadHolding a => Sys2Proof.Machine.execWireReqReadHolding a s
  | .wireReqReadInput a => Sys2Proof.Machine.execWireReqReadInput a s
  | .wireReqOther a f => Sys2Proof.Machine.execWireReqOther a f s
  | .wireRspReadHolding a => Sys2Proof.Machine.execWireRspReadHolding a s
  | .wireRspReadInput a => Sys2Proof.Machine.execWireRspReadInput a s
  | .wireExc a f => Sys2Proof.Machine.execWireExc a f s
  | .wireRspOther a f => Sys2Proof.Machine.execWireRspOther a f s
  | .wireForeign a f => Sys2Proof.Machine.execWireForeign a f s

end Sys2Proof.Machine
end

