-- ==== Sys2Proof/WellFormed.lean ====
section
/-!
DEFINITION. Which terms of Instr stand for a row of the opcode table. Operand values that a command rejects are ordinary
failures (30_encoding.md R107), so every operand of the seven commands is well formed; a RESERVED_OP term must hold a word
that is reserved, and a wire-frame term must hold a function byte that its row, tried in file order, would be chosen for.
-/

namespace Sys2Proof

/-- A command word is reserved (30_encoding.md R106): its opcode is none of 1 to 7, or a bit that its format (R101) does not
list is 1. Written from R101's bit ranges; the decoder is written from the table's masks. -/
def CmdWord.isReserved (w : CmdWord) : Bool :=
  let op := w.extractLsb' 60 4
  if op = 1#4 then w.extractLsb' 0 19 != 0#19
  else if op = 2#4 then w.extractLsb' 0 60 != 0#60
  else if op = 3#4 then w.extractLsb' 0 44 != 0#44
  else if op = 4#4 then w.extractLsb' 0 28 != 0#28
  else if op = 5#4 then w.extractLsb' 0 12 != 0#12
  else if op = 6#4 then w.extractLsb' 0 44 != 0#44
  else if op = 7#4 then w.extractLsb' 0 44 != 0#44
  else true

/-- The check of well-formedness (30_encoding.md R106, R107, R111). -/
def Instr.wellFormed : Instr → Bool
  | .config _ _ _ => true
  | .poll => true
  | .sendErr _ _ => true
  | .sendRsp _ _ _ => true
  | .mread _ _ _ _ => true
  | .mfetch _ => true
  | .crc _ => true
  | .reservedOp w => CmdWord.isReserved w
  | .wireReqReadHolding _ => true
  | .wireReqReadInput _ => true
  | .wireReqOther _ f => f != 3#8 && f != 4#8
  | .wireRspReadHolding _ => true
  | .wireRspReadInput _ => true
  | .wireExc _ f => f.msb
  | .wireRspOther _ f => f != 3#8 && f != 4#8 && !f.msb
  | .wireForeign _ _ => true

end Sys2Proof
end

