-- ==== Sys2Proof/Decode.lean ====
section
/-!
DEFINITION. The decoder and the encoder. A command word selects the row with `(w AND mask) = match` (30_encoding.md R111);
a received frame is classified by the key `cat(buf[0], buf[1])` under the case that R184 chooses, rows in file order. The
decoder is total: a word that no command row matches is RESERVED_OP, and `reservedReason` names why.
-/

namespace Sys2Proof

/-! ### Command words -/

/-- One command row of the opcode table: its mask and its match, as the table's 64-bit numbers. -/
structure CmdRow where
  mask : CmdWord
  value : CmdWord
  deriving DecidableEq, Repr

/-- `(w AND mask) = match` (30_encoding.md R111). -/
def CmdRow.fits (r : CmdRow) (w : CmdWord) : Bool := w &&& r.mask == r.value

def rowConfig : CmdRow := ⟨0xF00000000007FFFF#64, 0x1000000000000000#64⟩
def rowPoll : CmdRow := ⟨0xFFFFFFFFFFFFFFFF#64, 0x2000000000000000#64⟩
def rowSendErr : CmdRow := ⟨0xF0000FFFFFFFFFFF#64, 0x3000000000000000#64⟩
def rowSendRsp : CmdRow := ⟨0xF00000000FFFFFFF#64, 0x4000000000000000#64⟩
def rowMread : CmdRow := ⟨0xF000000000000FFF#64, 0x5000000000000000#64⟩
def rowMfetch : CmdRow := ⟨0xF0000FFFFFFFFFFF#64, 0x6000000000000000#64⟩
def rowCrc : CmdRow := ⟨0xF0000FFFFFFFFFFF#64, 0x7000000000000000#64⟩

/-- The seven command rows, in the table's order. -/
def commandRows : List CmdRow :=
  [rowConfig, rowPoll, rowSendErr, rowSendRsp, rowMread, rowMfetch, rowCrc]

/-- The instruction a command word stands for: fields at the bit ranges of 30_encoding.md R101, each taken as it stands. -/
def decodeCommand (w : CmdWord) : Instr :=
  if rowConfig.fits w then
    .config (w.extractLsb' 28 32) (w.extractLsb' 20 8) (w.getLsbD 19)
  else if rowPoll.fits w then
    .poll
  else if rowSendErr.fits w then
    .sendErr (w.extractLsb' 52 8) (w.extractLsb' 44 8)
  else if rowSendRsp.fits w then
    .sendRsp (w.extractLsb' 52 8) (w.extractLsb' 44 8) (w.extractLsb' 28 16)
  else if rowMread.fits w then
    .mread (w.extractLsb' 52 8) (w.extractLsb' 44 8) (w.extractLsb' 28 16) (w.extractLsb' 12 16)
  else if rowMfetch.fits w then
    .mfetch (w.extractLsb' 44 16)
  else if rowCrc.fits w then
    .crc (w.extractLsb' 44 16)
  else
    .reservedOp w

/-- Why a command word is reserved (30_encoding.md R106). -/
inductive ReservedReason where
  /-- The opcode is 0x0 or 0x8 to 0xF. -/
  | opcode
  /-- The opcode is a command's, and a reserved bit is 1. -/
  | reservedBit
  deriving DecidableEq, Repr

/-- The name of a rejection: none for a word of one of the seven commands. -/
def reservedReason (w : CmdWord) : Option ReservedReason :=
  if commandRows.any (fun r => r.fits w) then none
  else if commandRows.any (fun r => r.value.extractLsb' 60 4 == w.extractLsb' 60 4) then some .reservedBit
  else some .opcode

/-! ### Keys of received frames -/

/-- `cat(buf[0], buf[1])`, the key of the wire-frame rows (30_encoding.md R111): the address byte in bits 15:8. -/
def wireKey (a f : Byte) : Word16 := a ++ f

/-- The class of a good frame: the case first (R184), then the rows of that case in file order (30_encoding.md R111). -/
def decodeWire (c : WireCase) (key : Word16) : Instr :=
  let a : Byte := key.extractLsb' 8 8
  let f : Byte := key.extractLsb' 0 8
  match c with
  | .own =>
    if f = 3#8 then .wireReqReadHolding a
    else if f = 4#8 then .wireReqReadInput a
    else .wireReqOther a f
  | .awaited =>
    if f = 3#8 then .wireRspReadHolding a
    else if f = 4#8 then .wireRspReadInput a
    else if f.msb then .wireExc a f
    else .wireRspOther a f
  | .foreign => .wireForeign a f

/-! ### Encoder -/

/-- What an instruction is decoded from: a command word, or the case and key of a received frame. -/
inductive Encoding where
  | command (w : CmdWord)
  | frame (c : WireCase) (key : Word16)
  deriving DecidableEq, Repr

/-- The decoder on either kind of encoding. -/
def decode : Encoding → Instr
  | .command w => decodeCommand w
  | .frame c key => decodeWire c key

/-- The words of an instruction, field by field from bit 63 down (30_encoding.md R101, R102), and the key of a frame class
(R111). -/
def encode : Instr → Encoding
  | .config baud addr dePresent => .command (0x1#4 ++ baud ++ addr ++ BitVec.ofBool dePresent ++ 0#19)
  | .poll => .command (0x2#4 ++ 0#60)
  | .sendErr fc kind => .command (0x3#4 ++ fc ++ kind ++ 0#44)
  | .sendRsp fc length offset => .command (0x4#4 ++ fc ++ length ++ offset ++ 0#28)
  | .mread node fc start count => .command (0x5#4 ++ node ++ fc ++ start ++ count ++ 0#12)
  | .mfetch n => .command (0x6#4 ++ n ++ 0#44)
  | .crc n => .command (0x7#4 ++ n ++ 0#44)
  | .reservedOp w => .command w
  | .wireReqReadHolding a => .frame .own (wireKey a 3#8)
  | .wireReqReadInput a => .frame .own (wireKey a 4#8)
  | .wireReqOther a f => .frame .own (wireKey a f)
  | .wireRspReadHolding a => .frame .awaited (wireKey a 3#8)
  | .wireRspReadInput a => .frame .awaited (wireKey a 4#8)
  | .wireExc a f => .frame .awaited (wireKey a f)
  | .wireRspOther a f => .frame .awaited (wireKey a f)
  | .wireForeign a f => .frame .foreign (wireKey a f)

/-! ### Words numbered as the opcode table numbers them -/

/-- The case that a bare 16-bit key of the table is read under. DESIGN CHOICE (log entry 4): in the block the receiver's
state chooses the case, and a bare key has no receiver. A function byte with bit 7 set is read as an answer to a request
(30_encoding.md R92), an address that MREAD can await (1 to 254, R96) as AWAITED, address 0 as OWN, address 255 as FOREIGN. -/
def tableCase (key : Word16) : WireCase :=
  let a : Byte := key.extractLsb' 8 8
  let f : Byte := key.extractLsb' 0 8
  if a = 0#8 then (if f.msb then .awaited else .own)
  else if a = 255#8 then .foreign
  else .awaited

/-- The instruction of a table word: a 64-bit command word, or a 16-bit key of a received frame. -/
def decodeTableWord (nbits w : Nat) : Option Instr :=
  if nbits = 64 then some (decodeCommand (BitVec.ofNat 64 w))
  else if nbits = 16 then
    let key := BitVec.ofNat 16 w
    some (decodeWire (tableCase key) key)
  else none

end Sys2Proof
end

