-- ==== Sys2Proof/Machine/Environment.lean ====
section
/-!
DEFINITION. The environment's events (46_config_and_environment.md R263, R264, R266) and reset (70_reset_and_hazards.md R330).
An event whose condition does not hold cannot occur, and the model has no step for it (log entry 15).
-/

namespace Sys2Proof.Machine

/-- RX_BYTE `b` (R263). -/
def State.rxByte (s : State) (b : Byte) : State := { s with rxFifo := s.rxFifo ++ [b] }

/-- TX_DONE (R264): only while `tx_busy = 1`. -/
def State.txDone (s : State) : Result :=
  if s.txBusy then .next { s with txBusy := false, txComplete := true } else .refused .eventNotEnabled

/-- The clock advances by `d`. -/
def State.advance (s : State) (d : Nat) : State := { s with nowUs := s.nowUs + d }

/-- TICK `d` with `d >= 1` (R266). -/
def State.tick (s : State) (d : Nat) : Result :=
  if d = 0 then .refused .eventNotEnabled else .next (s.advance d)

/-- Reset (70_reset_and_hazards.md R330): every element holds the value of the *reset* column. The environment's FIFO and
clock are what it says they are then, and the instance parameters, the host's memories, the inputs still to come and the
draw counter are not the block's to reset (log entry 14). -/
def State.powerOn (s : State) (fifo : List Byte) (now : Nat) : State :=
  { State.reset with
    params := s.params, pl := s.pl, dst := s.dst, inputs := s.inputs, draws := s.draws
    rxFifo := fifo, nowUs := now }

/-- No input is taken: time passes by an open amount of at least one microsecond (R266; log entry 2). -/
def State.idleTick (s : State) : State := (s.advance (Config.openTick s.draws + 1)).draw

end Sys2Proof.Machine
end

