-- ==== Sys2Proof/Machine/Interface.lean ====
section
/-!
DEFINITION. The command interface (46_config_and_environment.md R261): what a step takes from the list of inputs, and how one
instruction is placed so that the next step runs it (log entry 3).
-/

namespace Sys2Proof.Machine

/-! ### Taking an input -/

/-- What the next step of a state with no enabled micro-step is. -/
inductive Turn where
  /-- The command word at the head of the inputs is accepted, with its payload memory. -/
  | accept (w : CmdWord) (payload : Memory) (rest : List Input)
  /-- The environment's event at the head of the inputs occurs. -/
  | event (e : Input) (rest : List Input)
  /-- Nothing is listed, or the command at the head must wait for the one in progress: time passes. -/
  | idle
  deriving DecidableEq, Repr

/-- The turn of a state: inputs are taken in order; a command is taken only when the interface is not busy (R261). -/
def State.turn (s : State) : Turn :=
  match s.inputs with
  | [] => .idle
  | .command w payload :: rest => if s.waiting then .idle else .accept w payload rest
  | e :: rest => .event e rest

/-- The state in which an accepted command executes: it has left the list, and its payload memory is the host's. -/
def State.accepted (s : State) (payload : Memory) (rest : List Input) : State :=
  { s with inputs := rest, pl := payload }

/-- An event of the environment, already taken from the list (a command is no event: it has no effect here). -/
def State.runEvent (s : State) (e : Input) : Result :=
  match e with
  | .rxByte b => .next (s.rxByte b)
  | .txDone => s.txDone
  | .tick d => s.tick d
  | .reset fifo now => .next (s.powerOn fifo now)
  | .command _ _ => .next s

/-! ### Placing one instruction -/

/-- The interface ready for a command: no send in progress is waiting, and the block is configured, as every command but
CONFIG needs (70_reset_and_hazards.md R333). A block that is not configured gets the baud rate of the spec's examples. -/
def State.ready (s : State) (needsConfig : Bool) : State :=
  let free := if s.waiting then { s with txc := .idle, starter := none } else s
  if needsConfig && !free.configured then free.setConfig 9600#32 free.myAddr free.dePresent else free

/-- A command word presented as the next input. -/
def State.placeCommand (s : State) (w : CmdWord) : State :=
  let t := s.ready (w.extractLsb' 60 4 != 1#4)
  { t with inputs := .command w t.pl :: t.inputs }

/-- A good 8-byte frame with the key `cat(a, f)`, received and just become complete, in a block for which its address is in
the case that `tableCase` reads the key under, and a POLL presented as the next input: that POLL runs the frame's class. -/
def State.placeFrame (s : State) (key : Word16) : State :=
  let a := hi8 key
  let f := lo8 key
  let c := tableCase key
  let t := s.ready true
  let now := t.nowUs + Config.k15
  let u : State :=
    { t with
      myAddr := match c with
        | .own => a
        | .awaited => t.myAddr
        | .foreign => ~~~a
      awaitValid := c == .awaited
      awaitAddr := match c with
        | .own => t.awaitAddr
        | .awaited => a
        | .foreign => t.awaitAddr
      tReqMs := now / 1000, tLastUs := t.nowUs, nowUs := now
      rxActive := true, overflow := false, rxFifo := [], txc := .idle, starter := none
      inputs := .command 0x2000000000000000#64 t.pl :: t.inputs }
  u.buildFrame [a, f, 0#8, 0#8, 0#8, 0#8]

/-- The next input is the instruction that `decodeTableWord nbits w` reads; a width the table does not have places nothing. -/
def State.place (s : State) (nbits w : Nat) : State :=
  if nbits = 64 then s.placeCommand (BitVec.ofNat 64 w)
  else if nbits = 16 then s.placeFrame (BitVec.ofNat 16 w)
  else s

end Sys2Proof.Machine
end

