-- ==== Sys2Proof/Machine/Txc.lean ====
section
/-!
DEFINITION. The transmission controller's micro-steps (45_transmission_controller.md R242 to R246). R241 is `State.startSend`,
and completion (R247) is POLL's branch B1.
-/

namespace Sys2Proof.Machine

/-- The response of the command whose send has been handed over (R246): OK, or ERR_ILLEGAL_FUNCTION for the POLL. -/
def State.returnStarter (s : State) : State :=
  match s.starter with
  | none => s
  | some .poll => s.returnStatus .errIllegalFunction
  | some .sendErr => s.returnValue 0#16
  | some .sendRsp => s.returnValue 0#16
  | some .mread => s.returnValue 0#16

/-- TXC_HANDOFF (R246). -/
def State.handOff (s : State) : Result :=
  s.guardBuf s.len
    (.next { ((s.txWrite (s.bufBytes 0 s.len)).setTxc .active).returnStarter with starter := none })

/-- Assert driver-enable (R244). -/
def State.enableDriver (s : State) : State := { s with de := true, tDeUs := s.nowUs, txc := .deSettle }

/-- The micro-step that is enabled, if any: silence has elapsed (R243, R244), or the driver has settled (R245). -/
def State.microStep (s : State) : Option Result :=
  match s.txc with
  | .waitSilence =>
    if s.withinT35 then none
    else if s.dePresent then some (.next s.enableDriver)
    else some s.handOff
  | .deSettle => if s.settling then none else some s.handOff
  | .idle => none
  | .active => none

end Sys2Proof.Machine
end

