-- ==== Sys2Proof/Machine/Step.lean ====
section
/-!
DEFINITION. One step of the system: an enabled micro-step of the transmission controller first (45_transmission_controller.md
R248), then the next input, then the passing of time.
-/

namespace Sys2Proof.Machine

/-- One step (47_common_semantics.md R270 lists every kind). -/
def step (s : State) : Host.Outcome State Fault Refusal :=
  match s.microStep with
  | some r => r
  | none =>
    match s.turn with
    | .accept w payload rest => exec (decodeCommand w) (s.accepted payload rest)
    | .event e rest => State.runEvent { s with inputs := rest } e
    | .idle => .next s.idleTick

/-- The state with one instruction of the opcode table placed so that the very next step runs it (log entry 3). -/
def State.withFetchWord (s : State) (nbits w : Nat) : State := s.place nbits w

end Sys2Proof.Machine
end

