-- ==== Sys2Proof/Safety.lean ====
section
/-!
DEFINITION. What counts as a sound state (`Inv`, 10_state.md R33 and the rules it rests on), and the terms the claims use:
when a POLL completes a frame, the reference CRC in its bit-serial form, and which heads of the input list are events.
-/

namespace Sys2Proof.Machine

/-! ### The invariant -/

/-- A payload memory is in canonical form and inside its address space (20_memory.md R60). -/
def Input.wf : Input → Prop
  | .command _ payload => Memory.wf payload ∧ ∀ p ∈ payload, p.1 ≤ 65535 + 254
  | .rxByte _ => True
  | .txDone => True
  | .tick _ => True
  | .reset _ _ => True

/-- `buf[0..len)` is a frame with its CRC, as the sends build them: 5 bytes at least (43_slave_responder.md R203, R207;
44_master_requester.md R224), the last two the CRC of the others. -/
def State.holdsBuiltFrame (s : State) : Prop := 5 ≤ s.len ∧ s.claimedCrc = s.crc16 (s.len - 2)

/-- The invariant of every step. (I-a) to (I-f) are R33's; (I-d) with the one exception that R204, R208 and R220 make: a send after
an overflowed frame leaves `overflow` as it is (log entry 13). -/
structure Inv (s : State) : Prop where
  /-- R9. -/
  capacity : Config.capacityMin ≤ s.params.capacity ∧ s.params.capacity ≤ Config.capacityMax
  bufWf : s.buf.wf
  /-- R62: nothing is ever written at an index `>= C`. -/
  bufBound : ∀ p ∈ s.buf, p.1 < s.params.capacity
  /-- R50: every byte that a rule can read has been written. -/
  bufWritten : ∀ i, i < s.len → (s.buf.read? i).isSome = true
  plWf : s.pl.wf
  plBound : ∀ p ∈ s.pl, p.1 ≤ 65535 + 254
  dstWf : s.dst.wf
  /-- R60: MFETCH writes addresses 0 to 254 only. -/
  dstBound : ∀ p ∈ s.dst, p.1 ≤ 254
  inputsWf : ∀ e ∈ s.inputs, e.wf
  /-- (I-a). -/
  notBoth : s.sending = true → s.rxActive = false
  /-- (I-b). -/
  lenBound : s.len ≤ s.params.capacity
  /-- (I-c). -/
  respLen : s.respAvail = true → 7 ≤ s.len
  /-- (I-d), of every frame received, completed or not: where it fails, `buf` holds a frame that a send has built since. -/
  overflowFull : s.overflow = true → s.len = s.params.capacity ∨ (s.rxActive = false ∧ s.holdsBuiltFrame)
  /-- (I-e). -/
  driver : s.de = true → s.dePresent = true ∧ (s.txc = .deSettle ∨ s.txc = .active)
  /-- (I-f): the controller waits exactly while a command is in progress. -/
  inProgress : s.starter.isSome = s.waiting
  /-- R40 and R50: before CONFIG the engine is as reset left it. -/
  unconfigured : s.configured = false →
    s.txc = .idle ∧ s.rxActive = false ∧ s.awaitValid = false ∧ s.respAvail = false
  /-- R41 and R44. -/
  timing : s.configured = true →
    s.baud ≠ 0#32 ∧ s.t15 = durationT15 s.baud ∧ s.t35 = durationT35 s.baud
  /-- R180: a frame being received has at least one byte. -/
  received : s.rxActive = true → 1 ≤ s.len
  /-- R271: no elapsed time is negative. -/
  lastStamp : s.tLastUs ≤ s.nowUs
  deStamp : s.txc = .deSettle → s.tDeUs ≤ s.nowUs
  reqStamp : s.awaitValid = true → s.tReqMs ≤ s.nowMs
  /-- R47 and R247: the transmitter is busy only while the controller is active, and then reports completion later. -/
  busyActive : s.txBusy = true → s.txc = .active ∧ s.txComplete = false
  activeTx : s.txc = .active → s.txBusy = true ∨ s.txComplete = true
  /-- R105: status codes 11 to 15 are never produced. -/
  status : s.rspStatus.toNat ≤ 10

/-- A step is safe when it does not fault. -/
def State.safeStep (s : State) : Prop := ∀ f, step s ≠ .fault f

/-! ### Terms of the claims -/

/-- The master request has expired (41_frame_assembler.md R152), in the rule's own terms. -/
def State.requestExpired (s : State) : Prop :=
  s.awaitValid = true ∧ s.nowUs / 1000 - s.tReqMs > s.params.masterTimeoutMs

/-- A POLL gets past branches B1 and B2 (41_frame_assembler.md R150). -/
def State.pollReceives (s : State) : Prop :=
  s.configured = true ∧ s.txc = .idle ∧ ¬ s.requestExpired

/-- A POLL completes the frame in `buf` (41_frame_assembler.md R159): no byte is available, a frame is being received, and
at least T15 has passed since the poll that read its last byte. -/
def State.frameCompletes (s : State) : Prop :=
  s.pollReceives ∧ s.rxFifo = [] ∧ s.rxActive = true ∧ s.t15.num ≤ (s.nowUs - s.tLastUs) * s.t15.den

/-- One step of the bit-serial CRC, for one input bit (40_crc16.md R132, R138). -/
def Spec.crcBit (r : Word16) (bit : Bool) : Word16 :=
  if (r.getLsbD 0 ^^ bit) = true then (r >>> 1) ^^^ 0xA001#16 else r >>> 1

/-- One byte, bits 0 to 7 in that order (40_crc16.md R132, the equivalent bit-serial form). -/
def Spec.crcByte (r : Word16) (b : Byte) : Word16 :=
  (List.range 8).foldl (fun q i => Spec.crcBit q (b.getLsbD i)) r

/-- The CRC output of a byte sequence (40_crc16.md R133), bit-serially: `cat(r[7:0], r[15:8])`. -/
def Spec.crcOutput (bs : List Byte) : Word16 :=
  let r := bs.foldl Spec.crcByte 0xFFFF#16
  r.extractLsb' 0 8 ++ r.extractLsb' 8 8

/-- The bytes `buf[0], ..., buf[n-1]`, in index order. -/
def State.frameBytes (s : State) (n : Nat) : List Byte := (List.range n).map s.bufByte

/-- The frame's trailing two bytes are its CRC (42_validator_dispatcher.md R183). -/
def State.crcGood (s : State) : Prop :=
  s.bufByte (s.len - 2) ++ s.bufByte (s.len - 1) = Spec.crcOutput (s.frameBytes (s.len - 2))

/-- The length check of 42_validator_dispatcher.md R181: 7 while a request is outstanding, else 8. -/
def State.longEnough (s : State) : Prop := (if s.awaitValid = true then 7 else 8) ≤ s.len

/-- The bytes of `buf` at and after index `n` are as before (a frame condition of the sends). -/
def State.sameBufFrom (s t : State) (n : Nat) : Prop := ∀ i, n ≤ i → t.bufByte i = s.bufByte i

/-- The last two of the `n + 2` bytes of a built frame are the CRC of the first `n`, high byte first (30_encoding.md R94). -/
def State.endsInCrc (t : State) (n : Nat) : Prop :=
  t.bufByte n ++ t.bufByte (n + 1) = Spec.crcOutput (t.frameBytes n)

/-- The head of the inputs is POLL's command word (30_encoding.md R102). -/
def State.headIsPoll (s : State) : Prop :=
  ∃ payload rest, s.inputs = .command 0x2000000000000000#64 payload :: rest

/-- The head of the inputs is a CONFIG word. -/
def State.headIsConfig (s : State) : Prop :=
  ∃ w payload rest baud addr dePresent, s.inputs = .command w payload :: rest ∧ decodeCommand w = .config baud addr dePresent

/-- The head of the inputs is a command word that decodes to `i`. -/
def State.headDecodesTo (s : State) (i : Instr) : Prop :=
  ∃ w payload rest, s.inputs = .command w payload :: rest ∧ decodeCommand w = i

/-- A POLL answers the frame in `buf` itself (42_validator_dispatcher.md R186): it completes a good frame in case OWN with a
function code other than 3 and 4. -/
def State.autoResponds (s : State) : Prop :=
  s.frameCompletes ∧ s.overflow = false ∧ s.longEnough ∧ s.crcGood ∧
    s.bufByte 0 = s.myAddr ∧ s.awaitValid = false ∧ s.bufByte 1 ≠ 3#8 ∧ s.bufByte 1 ≠ 4#8

/-- The command at the head of the inputs is one that starts the send `who` names (47_common_semantics.md R272). -/
def State.headSends (s : State) (who : Starter) : Prop :=
  match who with
  | .sendErr => ∃ fc kind, s.headDecodesTo (.sendErr fc kind)
  | .sendRsp => ∃ fc length offset, s.headDecodesTo (.sendRsp fc length offset)
  | .mread => ∃ node fc start count, s.headDecodesTo (.mread node fc start count)
  | .poll => s.headIsPoll ∧ s.autoResponds

/-- The head of the inputs is TX_DONE. -/
def State.headIsTxDone (s : State) : Prop := ∃ rest, s.inputs = .txDone :: rest

/-- The head of the inputs is a reset. -/
def State.headIsReset (s : State) : Prop := ∃ fifo now rest, s.inputs = .reset fifo now :: rest

/-- No event is at the head of the inputs: nothing, or a command, is next. -/
def State.noEventNext (s : State) : Prop :=
  s.inputs = [] ∨ ∃ w payload rest, s.inputs = .command w payload :: rest

end Sys2Proof.Machine
end

