-- ==== Sys2Proof/Certificates/Slice0/Obligations.lean ====
section
/-!
DEFINITION. The statements for the provers. Each is about the model's own `exec`, `step`, decoder or encoder; each docstring
names the rule of spec/ it formalises. A result is stated as an equation `exec i s = .next t` with `t` written as the state
before with its changed fields, so every field that is not named is unchanged; where the frame buffer or the host's
destination memory changes, `buf := t.buf` (or `dst := t.dst`) leaves that one field open and further clauses say, through
the model's read of one byte, what every address reads as afterwards.
-/

open Sys2Proof Sys2Proof.Machine

/-! ### Encodings (30_encoding.md) -/

/-- R101, R102, R111: decoding the encoding of a well-formed instruction gives it back, operands at every value. -/
def Obligations.DecodeUndoesEncode : Prop :=
  ∀ i : Instr, i.wellFormed = true → decode (encode i) = i

/-- R106, R111: every command word, and every key in every case, has one meaning, which is well formed. -/
def Obligations.EncodeUndoesDecode : Prop :=
  ∀ e : Encoding, encode (decode e) = e ∧ (decode e).wellFormed = true

/-- R111: "no two of the seven command rows can match the same word". -/
def Obligations.CommandRowsNeverOverlap : Prop :=
  ∀ (w : CmdWord) (i j : Fin commandRows.length),
    (commandRows.get i).fits w = true → (commandRows.get j).fits w = true → i = j

/-- R106: a word with opcode 0x0 or 0x8 to 0xF, or with a nonzero reserved bit, is answered with `rsp_ok = 0`,
`rsp_status = 0`, `rsp_value = 0` and changes no state. That the model answers as the block does, where R106 lets a model
refuse, is the model's choice (log entry 10). -/
def Obligations.ReservedWordIsAnsweredWithoutEffect : Prop :=
  ∀ (w : CmdWord) (s : State), w.isReserved = true →
    decodeCommand w = .reservedOp w ∧
    exec (decodeCommand w) s = .next { s with rspOk := false, rspStatus := 0#4, rspValue := 0#16 }

/-- R101, R102, R106, R111: words written out in the spec decode to what it says they are. -/
def Obligations.SpecWordsDecode : Prop :=
  decodeCommand 0x1000025800580000#64 = .config 9600#32 5#8 true ∧
  decodeCommand 0x2000000000000000#64 = .poll ∧
  decodeCommand 0x3060100000000000#64 = .sendErr 6#8 1#8 ∧
  decodeCommand 0x4030400020000000#64 = .sendRsp 3#8 4#8 2#16 ∧
  decodeCommand 0x5FE04FFFF0001000#64 = .mread 254#8 4#8 65535#16 1#16 ∧
  decodeCommand 0x6004000000000000#64 = .mfetch 64#16 ∧
  decodeCommand 0x7000B00000000000#64 = .crc 11#16 ∧
  decodeCommand 0x2000000000000001#64 = .reservedOp 0x2000000000000001#64 ∧
  decodeWire .own 0x0506#16 = .wireReqOther 5#8 6#8 ∧
  decodeWire .awaited 0x0283#16 = .wireExc 2#8 0x83#8

/-! ### The CRC-16 calculator (40_crc16.md) -/

/-- The byte step agrees with the bit-serial form, for every register and every byte. That the two are equivalent is R132's
own inference from its pseudocode, and the step order of that pseudocode is general knowledge (G1; log entry 24, PRESUMED). -/
def Obligations.CrcByteStepIsBitSerial : Prop :=
  ∀ (r : Word16) (b : Byte), crcByte r b = Spec.crcByte r b

/-- The check values, each row of the table under R137: the raw CRC, the CRC output and the two bytes on the wire. The spec
computed the rows by R132 and R133, whose step order is general knowledge (G1; log entry 24, PRESUMED). -/
def Obligations.CrcCheckValues : Prop :=
  let row (bytes : List Byte) (raw out : Word16) (first second : Byte) : Prop :=
    crcRaw bytes = raw ∧ crcOutput bytes = out ∧ hi8 (crcOutput bytes) = first ∧ lo8 (crcOutput bytes) = second
  row [] 0xFFFF#16 0xFFFF#16 0xFF#8 0xFF#8 ∧
  row [0x00#8] 0x40BF#16 0xBF40#16 0xBF#8 0x40#8 ∧
  row [0x01#8] 0x807E#16 0x7E80#16 0x7E#8 0x80#8 ∧
  row [0xFF#8] 0x00FF#16 0xFF00#16 0xFF#8 0x00#8 ∧
  row [0x31#8, 0x32#8, 0x33#8, 0x34#8, 0x35#8, 0x36#8, 0x37#8, 0x38#8, 0x39#8] 0x4B37#16 0x374B#16 0x37#8 0x4B#8 ∧
  row [0x01#8, 0x03#8, 0x00#8, 0x00#8, 0x00#8, 0x0A#8] 0xCDC5#16 0xC5CD#16 0xC5#8 0xCD#8 ∧
  row [0x05#8, 0x03#8, 0x00#8, 0x01#8, 0x00#8, 0x02#8] 0x4F94#16 0x944F#16 0x94#8 0x4F#8

/-- R136: a frame that ends in its CRC output, computed here bit-serially, high byte first, passes the check of R183 when it
is re-validated: the validator goes on to the dispatch. So for any bytes placed in `buf` with their CRC after them, and for
every frame that `buildFrame` builds. That the raw CRC over all its bytes is 0 is R136's own inference from R132, whose step
order is general knowledge (log entry 24). -/
def Obligations.AppendedCrcValidates : Prop :=
  (∀ (s : State) (m : List Byte),
    (∀ i, i < m.length → s.bufByte i = m.getD i 0#8) →
    s.bufByte m.length ++ s.bufByte (m.length + 1) = Spec.crcOutput m →
    s.len = m.length + 2 →
    (s.longEnough → s.len ≤ s.params.capacity → s.validate = s.dispatchFrame) ∧
    crcRaw (s.bufBytes 0 s.len) = 0x0000#16) ∧
  ∀ (s : State) (body : List Byte),
    let t := s.buildFrame body
    (t.longEnough → t.len ≤ t.params.capacity → t.validate = t.dispatchFrame) ∧
    crcRaw (t.bufBytes 0 t.len) = 0x0000#16

/-- R135, R133, by the spec's decision D24: CRC `n` is refused before CONFIG, while sending and when `n > len`; otherwise it answers `crc16(n)`, computed
here bit-serially, and writes nothing but the response. -/
def Obligations.CrcCommand : Prop :=
  ∀ (n : Word16) (s : State),
    (s.configured = false → exec (.crc n) s = .refused .notConfigured) ∧
    (s.configured = true → s.txc ≠ .idle → exec (.crc n) s = .refused .crcWhileSending) ∧
    (s.configured = true → s.txc = .idle → s.len < n.toNat → exec (.crc n) s = .refused .crcBeyondLen) ∧
    (s.configured = true → s.txc = .idle → n.toNat ≤ s.len → s.len ≤ s.params.capacity →
      exec (.crc n) s =
        .next { s with rspOk := true, rspStatus := 0#4, rspValue := Spec.crcOutput (s.frameBytes n.toNat) })

/-! ### CONFIG (46_config_and_environment.md) and the command interface -/

/-- R265, by the spec's decision D22: CONFIG is refused for `baud = 0` and while `txc != TXC_IDLE`; otherwise it writes the configuration registers, the
two durations of R44 and the listed reset values, and nothing else (`rx_fifo` is not flushed). -/
def Obligations.ConfigCommand : Prop :=
  ∀ (baud : BitVec 32) (addr : Byte) (dePresent : Bool) (s : State),
    (baud = 0#32 → exec (.config baud addr dePresent) s = .refused .configBaudZero) ∧
    (baud ≠ 0#32 → s.txc ≠ .idle → exec (.config baud addr dePresent) s = .refused .configWhileSending) ∧
    (baud ≠ 0#32 → s.txc = .idle →
      exec (.config baud addr dePresent) s = .next
        { s with
          configured := true, baud := baud, myAddr := addr, dePresent := dePresent
          t15 := if baud.toNat ≤ 19200 then ⟨15000000, baud.toNat⟩ else ⟨750, 1⟩
          t35 := if baud.toNat ≤ 19200 then ⟨35000000, baud.toNat⟩ else ⟨1750, 1⟩
          len := 0, rxActive := false, overflow := false, awaitValid := false, respAvail := false
          txc := .idle, de := false, tLastUs := 0, rspOk := true, rspStatus := 0#4, rspValue := 0#16 })

/-- A comparison with T15 or T35 is exact: it is the comparison of the rational numbers, it is the comparison with the
ceiling, and a register holding the floor would expire one microsecond early whenever the duration is not whole. That the
durations of R44 are exact is the spec's decision D7 (U8; log entry 22; their form is log entry 19), and the forms with the
ceiling and the floor are R45's own inference from R44. -/
def Obligations.DurationsCompareExactly : Prop :=
  ∀ (baud : BitVec 32) (e : Nat), baud ≠ 0#32 →
    let q15 : ℚ := if baud.toNat ≤ 19200 then 15000000 / (baud.toNat : ℚ) else 750
    let q35 : ℚ := if baud.toNat ≤ 19200 then 35000000 / (baud.toNat : ℚ) else 1750
    ((durationT15 baud).notElapsed e = true ↔ (e : ℚ) < q15) ∧
    ((durationT35 baud).notElapsed e = true ↔ (e : ℚ) < q35) ∧
    ((durationT15 baud).notElapsed e = true ↔ e < ⌈q15⌉₊) ∧
    ((durationT35 baud).notElapsed e = true ↔ e < ⌈q35⌉₊) ∧
    ((⌊q15⌋₊ : ℚ) ≠ q15 → (durationT15 baud).notElapsed ⌊q15⌋₊ = true) ∧
    ((⌊q35⌋₊ : ℚ) ≠ q35 → (durationT35 baud).notElapsed ⌊q35⌋₊ = true)

/-- R40, R333, by the spec's decision D22: while `configured = 0` every command but CONFIG is refused. -/
def Obligations.CommandsBeforeConfigAreRefused : Prop :=
  ∀ s : State, s.configured = false →
    exec .poll s = .refused .notConfigured ∧
    (∀ fc kind, exec (.sendErr fc kind) s = .refused .notConfigured) ∧
    (∀ fc length offset, exec (.sendRsp fc length offset) s = .refused .notConfigured) ∧
    (∀ node fc start count, exec (.mread node fc start count) s = .refused .notConfigured) ∧
    (∀ n, exec (.mfetch n) s = .refused .notConfigured) ∧
    (∀ n, exec (.crc n) s = .refused .notConfigured)

/-- When the interface is not busy (R261), a step runs the command that the word at the head of the inputs decodes to, with
the host's payload memory beside it, in the state with that input taken. That the host's commands come from the head of one
list of inputs is log entry 1, that every command brings a payload memory, where R261 presents one with SEND_RSP, is log entry
7, and that MFETCH meets the persistent `dst` of State, where R261 presents a destination memory with it, is log entry 8 (all
DESIGN CHOICE: the model's, not the spec's). -/
def Obligations.StepRunsTheDecodedCommand : Prop :=
  ∀ (s : State) (w : CmdWord) (payload : Memory) (rest : List Input),
    s.inputs = .command w payload :: rest → (s.txc = .idle ∨ s.txc = .active) →
    step s = exec (decodeCommand w) { s with inputs := rest, pl := payload }

/-- R261, R242, R245: while a send waits, a command that the host presents is not accepted: it stays at the head of the
inputs, and nothing but time (and the draw counter) changes. That a waiting command holds the one list of inputs is log entry
1, and that time then passes by an open amount, counted by a draw, is log entry 2 (both DESIGN CHOICE). -/
def Obligations.BusyInterfaceAcceptsNoCommand : Prop :=
  ∀ (s : State) (w : CmdWord) (payload : Memory) (rest : List Input),
    s.inputs = .command w payload :: rest →
    (s.txc = .waitSilence ∧ (s.nowUs - s.tLastUs) * s.t35.den < s.t35.num) ∨
      (s.txc = .deSettle ∧ s.nowUs - s.tDeUs < s.params.deSettleUs) →
    ∃ d, 1 ≤ d ∧ step s = .next { s with nowUs := s.nowUs + d, draws := s.draws + 1 }

/-! ### The frame assembler: POLL (41_frame_assembler.md) -/

/-- R151: branch B1, with TX_DONE seen or not. -/
def Obligations.PollDuringTransmission : Prop :=
  ∀ s : State, s.configured = true → s.txc ≠ .idle →
    (s.txComplete = true →
      exec .poll s = .next
        { s with
          de := if s.dePresent = true then false else s.de
          txc := .idle, rspOk := true, rspStatus := 4#4, rspValue := 0#16 }) ∧
    (s.txComplete = false →
      exec .poll s = .next { s with rspOk := true, rspStatus := 3#4, rspValue := 0#16 })

/-- R152: branch B2 clears the marker and does nothing else; a request whose age is exactly the timeout has not expired. The
status and the strict comparison are the spec's decisions D10 and D8 (log entry 16). -/
def Obligations.PollAbandonsExpiredRequest : Prop :=
  ∀ s : State, s.configured = true → s.txc = .idle → s.awaitValid = true →
    (s.nowUs / 1000 - s.tReqMs > s.params.masterTimeoutMs →
      exec .poll s = .next
        { s with
          awaitValid := false, rspOk := true
          rspStatus := if s.rxActive = true then 1#4 else 0#4
          rspValue := 0#16 }) ∧
    (s.nowUs / 1000 - s.tReqMs = s.params.masterTimeoutMs → s.rxFifo = [] → s.rxActive = false →
      exec .poll s = .next { s with rspOk := true, rspStatus := 0#4, rspValue := 0#16 })

/-- R154, R155: the two branches of B3 that have no effect. -/
def Obligations.PollWithoutBytesWaits : Prop :=
  ∀ s : State, s.pollReceives → s.rxFifo = [] →
    (s.rxActive = false →
      exec .poll s = .next { s with rspOk := true, rspStatus := 0#4, rspValue := 0#16 }) ∧
    (s.rxActive = true → (s.nowUs - s.tLastUs) * s.t15.den < s.t15.num →
      exec .poll s = .next { s with rspOk := true, rspStatus := 1#4, rspValue := 0#16 })

/-- R156, R157, R158: branch B4 drains the whole FIFO. The frame starts at index 0, or goes on at `len` when one is being
received; bytes that find no room are dropped and set the overflow flag; every other byte of `buf` is as before. When the flag is set
and which time is recorded are the spec's decisions D11, D12 and D28. -/
def Obligations.PollDrainsTheFifo : Prop :=
  ∀ s : State, s.pollReceives → s.rxFifo ≠ [] → s.len ≤ s.params.capacity →
    let start := if s.rxActive = true then s.len else 0
    let room := s.params.capacity - start
    let kept := s.rxFifo.take room
    ∃ t, exec .poll s = .next t ∧
      t = { s with
        buf := t.buf, rxFifo := [], len := start + kept.length, rxActive := true
        overflow := (s.rxActive && s.overflow) || decide (room < s.rxFifo.length)
        respAvail := s.rxActive && s.respAvail
        tLastUs := s.nowUs, rspOk := true, rspStatus := 1#4, rspValue := 0#16 } ∧
      (∀ i, i < kept.length → t.bufByte (start + i) = kept.getD i 0#8) ∧
      (∀ i, i < start ∨ start + kept.length ≤ i → t.bufByte i = s.bufByte i)

/-- R160: a completed frame clears the receiving flag; one that overflowed reports ERR_OVERFLOW, and `overflow`, `len` and
the marker keep their values; any other is validated, and the POLL answers what the validator answers. -/
def Obligations.CompletedFrameIsReportedOrValidated : Prop :=
  ∀ s : State, s.frameCompletes →
    (s.overflow = true →
      exec .poll s = .next { s with rxActive := false, rspOk := true, rspStatus := 7#4, rspValue := 0#16 }) ∧
    (s.overflow = false → exec .poll s = State.validate { s with rxActive := false })

/-- R150: every POLL of a configured block with an ordinary buffer completes, whatever it finds: it answers with `rsp_ok = 1`,
or it is the POLL whose automatic error response is in progress. -/
def Obligations.PollAlwaysCompletes : Prop :=
  ∀ s : State, s.configured = true → 8 ≤ s.params.capacity → s.len ≤ s.params.capacity →
    ∃ t, exec .poll s = .next t ∧ (t.rspOk = true ∨ t.starter = some .poll)

/-! ### The validator (42_validator_dispatcher.md) -/

/-- R182, R181: a frame shorter than the minimum (7 while a request is outstanding, else 8) is ERR_CORRUPTED and clears the
marker, whatever its content. -/
def Obligations.ShortFrameIsCorrupted : Prop :=
  ∀ s : State, s.frameCompletes → s.overflow = false → ¬ s.longEnough →
    exec .poll s = .next
      { s with rxActive := false, awaitValid := false, rspOk := true, rspStatus := 8#4, rspValue := 0#16 }

/-- R183: a long enough frame whose last two bytes are not its CRC is ERR_CRC_FAILED and clears the marker, whatever its
address. -/
def Obligations.BadCrcIsReported : Prop :=
  ∀ s : State, s.frameCompletes → s.overflow = false → s.longEnough → s.len ≤ s.params.capacity → ¬ s.crcGood →
    exec .poll s = .next
      { s with rxActive := false, awaitValid := false, rspOk := true, rspStatus := 9#4, rspValue := 0#16 }

/-- A good frame is run as the class that its first two bytes decode to, in the case that the three tests choose in order,
with the receiving flag cleared first. The three tests are R184's. That the frame then runs as the row of the table that its
bytes select is R111 by the spec's decision D2, and that such a row is an instruction of its own, run inside the POLL, is log
entry 20 (DEDUCED). -/
def Obligations.PollRunsTheDecodedFrameClass : Prop :=
  ∀ s : State, s.frameCompletes → s.overflow = false → s.longEnough → s.len ≤ s.params.capacity → s.crcGood →
    (s.bufByte 0 = s.myAddr ∧ s.awaitValid = false →
      exec .poll s =
        exec (decodeWire .own (s.bufByte 0 ++ s.bufByte 1)) { s with rxActive := false }) ∧
    (s.awaitValid = true ∧ s.bufByte 0 = s.awaitAddr →
      exec .poll s =
        exec (decodeWire .awaited (s.bufByte 0 ++ s.bufByte 1)) { s with rxActive := false }) ∧
    (¬ (s.bufByte 0 = s.myAddr ∧ s.awaitValid = false) →
      ¬ (s.awaitValid = true ∧ s.bufByte 0 = s.awaitAddr) →
      exec .poll s =
        exec (decodeWire .foreign (s.bufByte 0 ++ s.bufByte 1)) { s with rxActive := false })

/-- R185: case OWN with function code 3 or 4 writes the result registers and reports FRAME_RECEIVED. -/
def Obligations.OwnReadRequestIsReported : Prop :=
  ∀ (a : Byte) (s : State), 8 ≤ s.params.capacity →
    exec (.wireReqReadHolding a) s = .next
      { s with
        outFunc := 3#8, outStart := s.bufByte 2 ++ s.bufByte 3, outCount := s.bufByte 4 ++ s.bufByte 5
        rspOk := true, rspStatus := 2#4, rspValue := 0#16 } ∧
    exec (.wireReqReadInput a) s = .next
      { s with
        outFunc := 4#8, outStart := s.bufByte 2 ++ s.bufByte 3, outCount := s.bufByte 4 ++ s.bufByte 5
        rspOk := true, rspStatus := 2#4, rspValue := 0#16 }

/-- R186, R203: case OWN with any other function code builds the 5-byte Illegal-Function response and starts the controller;
the POLL stays in progress until the hand-off, where it returns ERR_ILLEGAL_FUNCTION (HandOffCompletesTheSend). That the
wait stands between this step and the hand-off's is log entry 11. -/
def Obligations.OwnUnservedFunctionIsAnswered : Prop :=
  ∀ (a f : Byte) (s : State), 8 ≤ s.params.capacity →
    ∃ t, exec (.wireReqOther a f) s = .next t ∧
      t = { s with buf := t.buf, len := 5, respAvail := false, txc := .waitSilence, starter := some .poll } ∧
      t.bufByte 0 = s.myAddr ∧ t.bufByte 1 = f ||| 0x80#8 ∧ t.bufByte 2 = 0x01#8 ∧
      t.endsInCrc 3 ∧ s.sameBufFrom t 5

/-- R187: case AWAITED clears the marker; function codes 3 and 4 make a response available and report MASTER_RECEIVED, every
other function code reports MASTER_ERROR. -/
def Obligations.AwaitedResponseIsReported : Prop :=
  ∀ (a f : Byte) (s : State),
    exec (.wireRspReadHolding a) s = .next
      { s with awaitValid := false, respAvail := true, rspOk := true, rspStatus := 5#4, rspValue := 0#16 } ∧
    exec (.wireRspReadInput a) s = .next
      { s with awaitValid := false, respAvail := true, rspOk := true, rspStatus := 5#4, rspValue := 0#16 } ∧
    exec (.wireExc a f) s = .next
      { s with awaitValid := false, rspOk := true, rspStatus := 6#4, rspValue := 0#16 } ∧
    exec (.wireRspOther a f) s = .next
      { s with awaitValid := false, rspOk := true, rspStatus := 6#4, rspValue := 0#16 }

/-- R188: a foreign frame has no effect and reports NO_FRAMES; the marker stays set. -/
def Obligations.ForeignFrameIsIgnored : Prop :=
  ∀ (a f : Byte) (s : State),
    exec (.wireForeign a f) s = .next { s with rspOk := true, rspStatus := 0#4, rspValue := 0#16 }

/-! ### The slave responder (43_slave_responder.md) -/

/-- R203, R201, R204: SEND_ERR with kind 1 or 2 builds the 5-byte error frame and starts the controller; every other element
is unchanged, and so is every byte of `buf` from index 5. The response is delivered at the hand-off (log entry 11). -/
def Obligations.SendErrBuildsTheErrorFrame : Prop :=
  ∀ (fc kind : Byte) (s : State),
    s.configured = true → s.txc = .idle → s.rxActive = false → 8 ≤ s.params.capacity →
    (kind = 1#8 ∨ kind = 2#8) →
    ∃ t, exec (.sendErr fc kind) s = .next t ∧
      t = { s with buf := t.buf, len := 5, respAvail := false, txc := .waitSilence, starter := some .sendErr } ∧
      t.bufByte 0 = s.myAddr ∧ t.bufByte 1 = fc ||| 0x80#8 ∧
      t.bufByte 2 = (if kind = 1#8 then 0x01#8 else 0x02#8) ∧
      t.endsInCrc 3 ∧ s.sameBufFrom t 5

/-- R207, R206, R208: SEND_RSP with a served function code and a frame that fits builds the normal response from the payload
memory and starts the controller. A byte that the host did not fill is the free value drawn for this command (log entry 7);
the response is delivered at the hand-off (log entry 11). -/
def Obligations.SendRspBuildsTheResponse : Prop :=
  ∀ (fc length : Byte) (offset : Word16) (s : State),
    s.configured = true → s.txc = .idle → s.rxActive = false →
    (fc = 3#8 ∨ fc = 4#8) → length.toNat + 5 ≤ s.params.capacity →
    ∃ t, exec (.sendRsp fc length offset) s = .next t ∧
      t = { s with
        buf := t.buf, len := length.toNat + 5, respAvail := false, txc := .waitSilence
        starter := some .sendRsp, draws := s.draws + 1 } ∧
      t.bufByte 0 = s.myAddr ∧ t.bufByte 1 = fc ∧ t.bufByte 2 = length ∧
      (∀ i, i < length.toNat →
        t.bufByte (3 + i) = (s.pl.read? (offset.toNat + i)).getD (Config.payloadByte s.draws (offset.toNat + i))) ∧
      t.endsInCrc (3 + length.toNat) ∧ s.sameBufFrom t (length.toNat + 5)

/-- R209: a failing slave send changes nothing but the response. It fails while sending (R200), with a bad kind (R202), with
a function code other than 3 and 4, or with a frame that does not fit (R206). That SEND_RSP reports another function code as
FAIL is the spec's decision D15 (U18; log entry 22), and that the fit check does not wrap is D26 (U22). -/
def Obligations.FailingSlaveSendHasNoEffect : Prop :=
  ∀ (fc kind length : Byte) (offset : Word16) (s : State), s.configured = true →
    ((s.txc ≠ .idle ∨ (s.rxActive = false ∧ kind ≠ 1#8 ∧ kind ≠ 2#8)) →
      exec (.sendErr fc kind) s = .next { s with rspOk := false, rspStatus := 0#4, rspValue := 0#16 }) ∧
    ((s.txc ≠ .idle ∨ (s.rxActive = false ∧ ((fc ≠ 3#8 ∧ fc ≠ 4#8) ∨ s.params.capacity < length.toNat + 5))) →
      exec (.sendRsp fc length offset) s = .next { s with rspOk := false, rspStatus := 0#4, rspValue := 0#16 })

/-- R200, by the spec's decision D14: a slave send with `sending = 0` and `rx_active = 1` has no meaning: the model refuses
it. -/
def Obligations.SlaveSendWhileReceivingIsRefused : Prop :=
  ∀ (fc kind length : Byte) (offset : Word16) (s : State),
    s.configured = true → s.txc = .idle → s.rxActive = true →
    exec (.sendErr fc kind) s = .refused .sendWhileReceiving ∧
    exec (.sendRsp fc length offset) s = .refused .sendWhileReceiving

/-! ### The master requester (44_master_requester.md) -/

/-- R220, R223, R224, R225: an accepted MREAD flushes the FIFO, builds the request frame, sets the marker and its time stamp
and starts the controller; `resp_avail` (the spec's decision D16) and every other element keep their values. The response is
delivered at the hand-off (log entry 11). -/
def Obligations.MreadBuildsTheRequest : Prop :=
  ∀ (node fc : Byte) (start count : Word16) (s : State),
    s.configured = true → s.txc = .idle → s.rxActive = false → 8 ≤ s.params.capacity →
    1 ≤ node.toNat → node.toNat ≤ 254 → (fc = 3#8 ∨ fc = 4#8) → count ≠ 0#16 →
    count.toNat * 2 + 5 ≤ s.params.capacity →
    ∃ t, exec (.mread node fc start count) s = .next t ∧
      t = { s with
        buf := t.buf, len := 8, rxFifo := [], awaitValid := true, awaitAddr := node
        tReqMs := s.nowUs / 1000, txc := .waitSilence, starter := some .mread } ∧
      t.bufByte 0 = node ∧ t.bufByte 1 = fc ∧
      t.bufByte 2 ++ t.bufByte 3 = start ∧ t.bufByte 4 ++ t.bufByte 5 = count ∧
      t.endsInCrc 6 ∧ s.sameBufFrom t 8

/-- R222: a rejected MREAD returns FAIL and changes nothing, the FIFO included. The causes are R221's: an invalid argument, or
a busy block. That `count * 2 + 5` is compared with `C` without wrap is the spec's decision D26 (U22; log entry 22). -/
def Obligations.RejectedMreadHasNoEffect : Prop :=
  ∀ (node fc : Byte) (start count : Word16) (s : State), s.configured = true →
    (node.toNat < 1 ∨ 254 < node.toNat ∨ (fc ≠ 3#8 ∧ fc ≠ 4#8) ∨ count = 0#16 ∨
      s.params.capacity < count.toNat * 2 + 5 ∨ s.rxActive = true ∨ s.txc ≠ .idle) →
    exec (.mread node fc start count) s = .next { s with rspOk := false, rspStatus := 0#4, rspValue := 0#16 }

/-- Of an available response MFETCH copies the payload, of length `p = len - 5`, to `dst` from address 0 and answers
`p`, when `p` fits the budget and is the declared byte-count; `dst` elsewhere and all block state are unchanged. Otherwise it
copies nothing and answers 0. The length check is R228's; that no block state changes, `resp_avail` and so the response
itself included, is R229 by the spec's decision D16. -/
def Obligations.MfetchCopiesOnlyAMatchingPayload : Prop :=
  ∀ (n : Word16) (s : State),
    s.configured = true → s.txc = .idle → s.respAvail = true → 7 ≤ s.len → s.len ≤ s.params.capacity →
    (s.len - 5 ≤ n.toNat ∧ s.len - 5 = (s.bufByte 2).toNat →
      ∃ t, exec (.mfetch n) s = .next t ∧
        t = { s with
          dst := t.dst, rspOk := true, rspStatus := 0#4, rspValue := BitVec.ofNat 16 (s.len - 5) } ∧
        (∀ i, i < s.len - 5 → t.dst.read? i = some (s.bufByte (3 + i))) ∧
        (∀ i, s.len - 5 ≤ i → t.dst.read? i = s.dst.read? i)) ∧
    (¬ (s.len - 5 ≤ n.toNat ∧ s.len - 5 = (s.bufByte 2).toNat) →
      exec (.mfetch n) s = .next { s with rspOk := true, rspStatus := 0#4, rspValue := 0#16 })

/-- R227, R229, by the spec's decisions D16 and D17: MFETCH answers 0 and copies nothing when no response is available, and
is refused while sending. -/
def Obligations.MfetchWithoutAResponse : Prop :=
  ∀ (n : Word16) (s : State), s.configured = true →
    (s.txc ≠ .idle → exec (.mfetch n) s = .refused .fetchWhileSending) ∧
    (s.txc = .idle → s.respAvail = false →
      exec (.mfetch n) s = .next { s with rspOk := true, rspStatus := 0#4, rspValue := 0#16 })

/-! ### The transmission controller (45_transmission_controller.md) -/

/-- R244: once inter-frame silence has elapsed and a direction pin is present, the controller's step asserts the
driver-enable signal. That it does so exactly when a pin is present is the spec's decision D19, and that an enabled
micro-step comes before any input is log entry 11 (DEDUCED). -/
def Obligations.SilenceEnablesTheDriver : Prop :=
  ∀ s : State, s.txc = .waitSilence → s.t35.num ≤ (s.nowUs - s.tLastUs) * s.t35.den → s.dePresent = true →
    step s = .next { s with de := true, tDeUs := s.nowUs, txc := .deSettle }

/-- R246, R243, R245: the hand-off, when silence has elapsed without a direction pin or the driver has settled: the frame is
appended to the transmit stream in index order and the command that started the send returns. That a pin decides between
the two is the spec's decision D19; that an enabled micro-step comes before any input, and that `starter` remembers which
command is to return, is log entry 11 (DEDUCED). -/
def Obligations.HandOffCompletesTheSend : Prop :=
  ∀ (s : State) (who : Starter), s.starter = some who → s.len ≤ s.params.capacity →
    (s.txc = .waitSilence ∧ s.dePresent = false ∧ s.t35.num ≤ (s.nowUs - s.tLastUs) * s.t35.den) ∨
      (s.txc = .deSettle ∧ s.params.deSettleUs ≤ s.nowUs - s.tDeUs) →
    step s = .next
      { s with
        txBusy := true, txComplete := false, txLog := s.txLog ++ s.frameBytes s.len
        txc := .active, starter := none
        rspOk := true, rspStatus := if who = .poll then 10#4 else 0#4, rspValue := 0#16 }

/-- R248, R266: the wait of a send is bounded. With no event listed (the host may keep presenting commands), time advances by
at least one microsecond a step, so the hand-off is reached within as many steps as T35 and T_DE_SETTLE_US have
microseconds, and three more; what is then handed over is the frame that stood in `buf` when the wait began. -/
def Obligations.EverySendReachesItsHandOff : Prop :=
  ∀ s : State, Inv s → s.waiting = true → s.noEventNext →
    ∃ k t, k ≤ s.t35.num / s.t35.den + s.params.deSettleUs + 3 ∧ core.run k s = .next t ∧
      t.txc = .active ∧ t.starter = none ∧ t.txLog = s.txLog ++ s.frameBytes s.len ∧ t.inputs = s.inputs

/-- R272: the controller's transitions are those of the table, each under its condition; the first row names the command at
the head of the inputs that starts the send. -/
def Obligations.ControllerMovesAsTheTableSays : Prop :=
  ∀ s t : State, step s = .next t → t.txc ≠ s.txc →
    (s.txc = .idle ∧ t.txc = .waitSilence ∧ ∃ who, t.starter = some who ∧ s.headSends who) ∨
    (s.txc = .waitSilence ∧ t.txc = .active ∧ s.dePresent = false ∧
      s.t35.num ≤ (s.nowUs - s.tLastUs) * s.t35.den) ∨
    (s.txc = .waitSilence ∧ t.txc = .deSettle ∧ s.dePresent = true ∧
      s.t35.num ≤ (s.nowUs - s.tLastUs) * s.t35.den) ∨
    (s.txc = .deSettle ∧ t.txc = .active ∧ s.params.deSettleUs ≤ s.nowUs - s.tDeUs) ∨
    (s.txc = .active ∧ t.txc = .idle ∧ s.txComplete = true ∧ s.headIsPoll) ∨
    (t.txc = .idle ∧ s.headIsReset)

/-- R351, R250: while a transmission does not complete, every POLL returns FRAME_SENDING, every send FAILs, CONFIG is refused
and nothing is received; every step but a reset keeps it so unless the step is TX_DONE, and so it stays, for any number of
steps, while neither occurs. That CONFIG is refused is the spec's decision D22, and that only a reset recovers R351's own
inference from it. -/
def Obligations.UnfinishedTransmissionBlocks : Prop :=
  ∀ s : State, s.configured = true → s.txc = .active → s.txComplete = false →
    exec .poll s = .next { s with rspOk := true, rspStatus := 3#4, rspValue := 0#16 } ∧
    (∀ fc kind, exec (.sendErr fc kind) s = .next { s with rspOk := false, rspStatus := 0#4, rspValue := 0#16 }) ∧
    (∀ fc length offset,
      exec (.sendRsp fc length offset) s = .next { s with rspOk := false, rspStatus := 0#4, rspValue := 0#16 }) ∧
    (∀ node fc start count,
      exec (.mread node fc start count) s = .next { s with rspOk := false, rspStatus := 0#4, rspValue := 0#16 }) ∧
    (∀ baud addr dePresent, baud ≠ 0#32 → exec (.config baud addr dePresent) s = .refused .configWhileSending) ∧
    (∀ t, step s = .next t → ¬ s.headIsReset →
      t.configured = true ∧ t.txc = .active ∧ (t.txComplete = false ∨ s.headIsTxDone) ∧
      t.buf = s.buf ∧ t.len = s.len ∧ t.rxActive = s.rxActive ∧ ∃ arrived, t.rxFifo = s.rxFifo ++ arrived) ∧
    (∀ k t, (∀ e ∈ s.inputs, e ≠ .txDone ∧ ∀ fifo now, e ≠ .reset fifo now) → core.run k s = .next t →
      t.configured = true ∧ t.txc = .active ∧ t.txComplete = false ∧
      t.buf = s.buf ∧ t.len = s.len ∧ t.rxActive = s.rxActive)

/-! ### The environment's events and reset (46_config_and_environment.md, 70_reset_and_hazards.md) -/

/-- R263, R264, R266: the events, wherever no micro-step is enabled, the waits of the controller included: a byte is queued,
TX_DONE needs a busy transmitter, TICK advances the clock by at least 1. An event whose condition does not hold is refused
(log entry 15). -/
def Obligations.EventsChangeOnlyTheTransport : Prop :=
  ∀ (s : State) (rest : List Input), s.microStep = none →
    (∀ b, s.inputs = .rxByte b :: rest →
      step s = .next { s with inputs := rest, rxFifo := s.rxFifo ++ [b] }) ∧
    (s.inputs = .txDone :: rest → s.txBusy = true →
      step s = .next { s with inputs := rest, txBusy := false, txComplete := true }) ∧
    (s.inputs = .txDone :: rest → s.txBusy = false → step s = .refused .eventNotEnabled) ∧
    (∀ d, s.inputs = .tick d :: rest → 1 ≤ d →
      step s = .next { s with inputs := rest, nowUs := s.nowUs + d }) ∧
    (s.inputs = .tick 0 :: rest → step s = .refused .eventNotEnabled)

/-- R330, R50: reset leaves the block not configured, its buffer empty, not receiving, not sending, nothing outstanding or
available, the driver disabled and `t_last_us = 0`, in State.reset and after a reset event alike; the FIFO and the clock are
what the environment says (log entry 14: the parameters, the host's memories and the inputs are not reset). The values are
the spec's decision D21. -/
def Obligations.ResetLeavesTheBlockQuiescent : Prop :=
  let quiet (t : State) : Prop :=
    t.configured = false ∧ t.dePresent = false ∧ t.len = 0 ∧ t.txc = .idle ∧ t.rxActive = false ∧
    t.overflow = false ∧ t.awaitValid = false ∧ t.respAvail = false ∧ t.de = false ∧ t.tLastUs = 0 ∧
    t.txBusy = false ∧ t.txComplete = false ∧ t.txLog = []
  quiet State.reset ∧
  ∀ (s : State) (fifo : List Byte) (now : Nat) (rest : List Input), s.microStep = none →
    s.inputs = .reset fifo now :: rest →
    ∃ t, step s = .next t ∧ quiet t ∧ t.rxFifo = fifo ∧ t.nowUs = now ∧
      t.params = s.params ∧ t.pl = s.pl ∧ t.dst = s.dst ∧ t.inputs = rest

/-! ### Rules of the whole machine -/

/-- R33, R50: the state after reset meets the invariant. -/
def Obligations.ResetMeetsTheInvariant : Prop := Inv State.reset

/-- R33 (I-a) to (I-f), with R9, R24, R41, R44, R47, R60, R62, R105, R180 and R271: every step from a state that meets the
invariant gives one that meets it. Of (I-d) it keeps that a frame received with `overflow = 1` fills the buffer; the one
exception, a frame that a send has built since (R204, R208, R220), is log entry 13. -/
def Obligations.EveryStepKeepsTheInvariant : Prop :=
  ∀ s t : State, Inv s → step s = .next t → Inv t

/-- R62, R290: from a state that meets the invariant no step faults: `buf[i]` with `i >= C` is never accessed. -/
def Obligations.NoStepFaults : Prop :=
  ∀ s : State, Inv s → s.safeStep

/-- R33 (I-d) as printed, "`overflow = 1` implies `len = C`", is not kept: SEND_ERR, SEND_RSP and MREAD, accepted after an
overflowed frame, change `len` (R203, R207, R224) and leave `overflow` set: R204 and R208 say that it is not
written, and the steps of MREAD (R220, R223 to R225) do not write it. The model's reading is log entry 13. -/
def Obligations.PrintedOverflowInvariantIsBrokenByASend : Prop :=
  ∀ who : Starter, who ≠ .poll →
    ∃ s t : State, Inv s ∧ (s.overflow = true → s.len = s.params.capacity) ∧
      s.txc = .idle ∧ s.headSends who ∧ step s = .next t ∧ t.starter = some who ∧
      t.overflow = true ∧ t.len ≠ t.params.capacity

/-- R25: the result registers change only in a POLL that returns FRAME_RECEIVED, or by reset. -/
def Obligations.OnlyFrameReceivedWritesTheResultRegisters : Prop :=
  ∀ s t : State, step s = .next t →
    (t.outFunc ≠ s.outFunc ∨ t.outStart ≠ s.outStart ∨ t.outCount ≠ s.outCount) →
    (s.headIsPoll ∧ t.rspOk = true ∧ t.rspStatus = 2#4) ∨ s.headIsReset

/-- R30: an outstanding request is cleared by exactly four causes of a POLL (timeout, undersize frame, CRC mismatch, matching
response), by CONFIG and by reset. -/
def Obligations.MarkerIsClearedByItsCausesOnly : Prop :=
  ∀ s t : State, step s = .next t → s.awaitValid = true → t.awaitValid = false →
    (s.headIsPoll ∧ s.configured = true ∧ s.txc = .idle ∧
      (s.requestExpired ∨
        (s.frameCompletes ∧ s.overflow = false ∧
          (s.len < 7 ∨ ¬ s.crcGood ∨ s.bufByte 0 = s.awaitAddr)))) ∨
    s.headIsConfig ∨ s.headIsReset

/-- R32: the driver-enable output rises only in the controller's step before a hand-off, and falls only in the POLL that
observes transmit completion, both only with a direction pin; CONFIG and reset put it low. -/
def Obligations.DriverEnableFollowsTheTransmission : Prop :=
  ∀ s t : State, step s = .next t → t.de ≠ s.de →
    (t.de = true ∧ s.dePresent = true ∧ s.txc = .waitSilence ∧ t.txc = .deSettle) ∨
    (t.de = false ∧ s.dePresent = true ∧ s.txc ≠ .idle ∧ s.txComplete = true ∧ s.headIsPoll) ∨
    (t.de = false ∧ (s.headIsConfig ∨ s.headIsReset))

/-- R48, R268: no instruction changes the clock, and no step turns it back, a reset (a new start value) excepted. -/
def Obligations.ClockNeverRunsBackwards : Prop :=
  (∀ (i : Instr) (s t : State), exec i s = .next t → t.nowUs = s.nowUs) ∧
  (∀ s t : State, step s = .next t → ¬ s.headIsReset → s.nowUs ≤ t.nowUs)

/-- R72 (c), R209, R222, R293: an instruction that answers FAIL has no other effect. -/
def Obligations.FailingCommandHasNoEffect : Prop :=
  ∀ (i : Instr) (s t : State), exec i s = .next t → s.rspOk = true → t.rspOk = false →
    t = { s with rspOk := false, rspStatus := 0#4, rspValue := 0#16 }

/-- The host's destination memory changes only when an MFETCH is accepted with a response available, the payload memory only
by accepting a command, to that command's own, and the instance parameters never. What the block does with the two memories
is R66; that each accepted command brings its payload memory is log entry 7, that the destination memory persists is log
entry 8, and that the parameters of R9 to R11 stand in State is log entry 9 (all DESIGN CHOICE: the model's, not the
spec's). -/
def Obligations.HostMemoryAndParametersAreKept : Prop :=
  ∀ s t : State, step s = .next t →
    t.params = s.params ∧
    (t.dst ≠ s.dst →
      ∃ w payload rest n, s.inputs = .command w payload :: rest ∧ decodeCommand w = .mfetch n ∧ s.respAvail = true) ∧
    (t.pl ≠ s.pl → ∃ w payload rest, s.inputs = .command w payload :: rest ∧ t.pl = payload)

/-- R47: "`tx_log` is observation only: no rule reads it": with any other record in its place a step has the same outcome,
and appends the same bytes to that record (a reset empties it). -/
def Obligations.TransmitRecordIsNeverRead : Prop :=
  ∀ (s : State) (log : List Byte),
    match step s with
    | .next t =>
      (∃ sent, t.txLog = s.txLog ++ sent ∧ step { s with txLog := log } = .next { t with txLog := log ++ sent }) ∨
      (s.headIsReset ∧ step { s with txLog := log } = .next t)
    | .fault f => step { s with txLog := log } = .fault f
    | .refused r => step { s with txLog := log } = .refused r

/-- R23: "Bytes at index `>= len` keep whatever they last held; no rule reads them": from states that meet the invariant and
differ only in such bytes, steps have the same outcome, and the next states differ only in such bytes again. -/
def Obligations.StaleBufferBytesAreNeverRead : Prop :=
  ∀ (s : State) (other : Memory), Inv s →
    (∀ i, i < s.len → Memory.read? other i = s.buf.read? i) →
    match step s with
    | .next t =>
      ∃ other', step { s with buf := other } = .next { t with buf := other' } ∧
        ∀ i, i < t.len → Memory.read? other' i = t.buf.read? i
    | .fault f => step { s with buf := other } = .fault f
    | .refused r => step { s with buf := other } = .refused r

/-- R33 (I-d): every step keeps "`overflow = 1` implies `len = C`", but for the step that accepts a SEND_ERR, a SEND_RSP or an
MREAD: of the printed invariant the model keeps all that the rules of the sends leave of it (log entry 13). -/
def Obligations.OnlyASendBreaksThePrintedOverflowInvariant : Prop :=
  ∀ s t : State, Inv s → (s.overflow = true → s.len = s.params.capacity) → step s = .next t →
    (t.overflow = true → t.len = t.params.capacity) ∨
    (s.txc = .idle ∧ ∃ who, who ≠ .poll ∧ s.headSends who ∧ t.starter = some who)

/-- R29, R156, R160: `overflow` is read only of a frame being received. While none is, with any other value of the flag a step
has the same outcome, and the flag itself is overwritten or still not being read afterwards: no behaviour depends on it in the
states in which the printed (I-d) does not hold (log entry 13). -/
def Obligations.OverflowIsReadOnlyWhileReceiving : Prop :=
  ∀ (s : State) (b : Bool), s.rxActive = false →
    match step s with
    | .next t =>
      step { s with overflow := b } = .next t ∨
      (t.rxActive = false ∧ step { s with overflow := b } = .next { t with overflow := b })
    | .fault f => step { s with overflow := b } = .fault f
    | .refused r => step { s with overflow := b } = .refused r
end

