-- ==== Sys2Proof/Laws/Memory.lean ====
section
/-!
SUPPORT. The laws of the byte memories: a read after a write, and that every write keeps the canonical form and its bounds.
-/

namespace Sys2Proof.Machine.Memory

@[simp] theorem read?_nil (a : Nat) : Memory.read? [] a = none := rfl

theorem read?_cons (k : Nat) (v : Byte) (m : Memory) (a : Nat) :
    Memory.read? ((k, v) :: m) a = if a = k then some v else Memory.read? m a := rfl

/-- A write is read at its own address, and every other address reads as before. -/
theorem read?_write (m : Memory) (a : Nat) (v : Byte) (i : Nat) :
    Memory.read? (Memory.write m a v) i = if i = a then some v else Memory.read? m i := by
  induction m with
  | nil => rfl
  | cons c m ih =>
    obtain ⟨k, x⟩ := c
    rw [Memory.write]
    by_cases h1 : a < k
    · rw [if_pos h1, read?_cons]
    · by_cases h2 : a = k
      · subst h2
        rw [if_neg h1, if_pos rfl]
        simp only [read?_cons]
        split_ifs <;> rfl
      · rw [if_neg h1, if_neg h2, read?_cons, read?_cons, ih]
        split_ifs <;> first | rfl | omega

/-- Bytes written at rising addresses are read there, and every other address reads as before. -/
theorem read?_writeBytes (m : Memory) (a : Nat) (bs : List Byte) (i : Nat) :
    Memory.read? (Memory.writeBytes m a bs) i =
      if a ≤ i ∧ i < a + bs.length then bs[i - a]? else Memory.read? m i := by
  induction bs generalizing m a with
  | nil => simp only [Memory.writeBytes, List.length_nil, Nat.add_zero]; rw [if_neg (by omega)]
  | cons b bs ih =>
    rw [Memory.writeBytes, ih, read?_write]
    simp only [List.length_cons]
    by_cases h : i = a
    · subst h; simp
    · by_cases h2 : a + 1 ≤ i ∧ i < a + 1 + bs.length
      · rw [if_pos h2, if_pos (by omega), show i - a = (i - (a + 1)) + 1 by omega, List.getElem?_cons_succ]
      · rw [if_neg h2, if_neg h, if_neg (by omega)]

/-- An entry of a memory after a write is the one written or an old one. -/
theorem mem_write {m : Memory} {a : Nat} {v : Byte} {p : Host.Cell} (h : p ∈ Memory.write m a v) :
    p = (a, v) ∨ p ∈ m := by
  induction m with
  | nil => simpa [Memory.write] using h
  | cons c m ih =>
    obtain ⟨k, x⟩ := c
    rw [Memory.write] at h
    split_ifs at h with h1 h2
    · simpa using h
    · rcases List.mem_cons.1 h with h | h
      · exact .inl h
      · exact .inr (List.mem_cons_of_mem _ h)
    · rcases List.mem_cons.1 h with h | h
      · exact .inr (h ▸ List.mem_cons_self)
      · exact (ih h).imp_right (List.mem_cons_of_mem _)

/-- A write keeps the canonical form. -/
theorem write_wf {m : Memory} (h : m.wf) (a : Nat) (v : Byte) : (Memory.write m a v).wf := by
  induction m with
  | nil => simp [Memory.write, Memory.wf]
  | cons c m ih =>
    obtain ⟨k, x⟩ := c
    obtain ⟨hk, hm⟩ := List.pairwise_cons.1 h
    rw [Memory.write]
    split_ifs with h1 h2
    · refine List.pairwise_cons.2 ⟨fun q hq => ?_, h⟩
      rcases List.mem_cons.1 hq with rfl | hq
      · exact h1
      · exact lt_trans h1 (hk q hq)
    · subst h2; exact List.pairwise_cons.2 ⟨hk, hm⟩
    · refine List.pairwise_cons.2 ⟨fun q hq => ?_, ih hm⟩
      rcases mem_write hq with rfl | hq
      · simp only; omega
      · exact hk q hq

theorem writeBytes_wf {m : Memory} (h : m.wf) (a : Nat) (bs : List Byte) : (Memory.writeBytes m a bs).wf := by
  induction bs generalizing m a with
  | nil => exact h
  | cons b bs ih => exact ih (write_wf h a b) (a + 1)

/-- An entry of a memory after bytes were written lies among the written addresses or is an old one. -/
theorem mem_writeBytes {m : Memory} {a : Nat} {bs : List Byte} {p : Host.Cell}
    (h : p ∈ Memory.writeBytes m a bs) : (a ≤ p.1 ∧ p.1 < a + bs.length) ∨ p ∈ m := by
  induction bs generalizing m a with
  | nil => exact .inr h
  | cons b bs ih =>
    rcases ih h with h | h
    · exact .inl (by simp only [List.length_cons]; omega)
    · rcases mem_write h with rfl | h
      · exact .inl (by simp)
      · exact .inr h

/-- The empty memory, which State.reset holds, has the canonical form. -/
theorem nil_wf : Memory.wf [] := List.Pairwise.nil

end Sys2Proof.Machine.Memory
end

