-- ==== Sys2Proof/Laws/State.lean ====
section
/-!
SUPPORT. One lemma per field per update of State, each true by rfl, so that no proof unfolds a record update. The updates are
the named operations of Machine/; the three kinds of response reduce to `State.respond`.
-/

namespace Sys2Proof.Machine.State

variable (s : State)

@[simp] theorem returnStatus_eq (p : PollStatus) : s.returnStatus p = s.respond true p.code 0#16 := rfl
@[simp] theorem returnFail_eq : s.returnFail = s.respond false 0#4 0#16 := rfl
@[simp] theorem returnValue_eq (v : Word16) : s.returnValue v = s.respond true 0#4 v := rfl

/-! ### respond -/

@[simp] theorem respond_params (ok : Bool) (st : BitVec 4) (v : Word16) : (s.respond ok st v).params = s.params := rfl
@[simp] theorem respond_configured (ok : Bool) (st : BitVec 4) (v : Word16) : (s.respond ok st v).configured = s.configured := rfl
@[simp] theorem respond_baud (ok : Bool) (st : BitVec 4) (v : Word16) : (s.respond ok st v).baud = s.baud := rfl
@[simp] theorem respond_myAddr (ok : Bool) (st : BitVec 4) (v : Word16) : (s.respond ok st v).myAddr = s.myAddr := rfl
@[simp] theorem respond_dePresent (ok : Bool) (st : BitVec 4) (v : Word16) : (s.respond ok st v).dePresent = s.dePresent := rfl
@[simp] theorem respond_t15 (ok : Bool) (st : BitVec 4) (v : Word16) : (s.respond ok st v).t15 = s.t15 := rfl
@[simp] theorem respond_t35 (ok : Bool) (st : BitVec 4) (v : Word16) : (s.respond ok st v).t35 = s.t35 := rfl
@[simp] theorem respond_buf (ok : Bool) (st : BitVec 4) (v : Word16) : (s.respond ok st v).buf = s.buf := rfl
@[simp] theorem respond_len (ok : Bool) (st : BitVec 4) (v : Word16) : (s.respond ok st v).len = s.len := rfl
@[simp] theorem respond_outFunc (ok : Bool) (st : BitVec 4) (v : Word16) : (s.respond ok st v).outFunc = s.outFunc := rfl
@[simp] theorem respond_outStart (ok : Bool) (st : BitVec 4) (v : Word16) : (s.respond ok st v).outStart = s.outStart := rfl
@[simp] theorem respond_outCount (ok : Bool) (st : BitVec 4) (v : Word16) : (s.respond ok st v).outCount = s.outCount := rfl
@[simp] theorem respond_txc (ok : Bool) (st : BitVec 4) (v : Word16) : (s.respond ok st v).txc = s.txc := rfl
@[simp] theorem respond_rxActive (ok : Bool) (st : BitVec 4) (v : Word16) : (s.respond ok st v).rxActive = s.rxActive := rfl
@[simp] theorem respond_overflow (ok : Bool) (st : BitVec 4) (v : Word16) : (s.respond ok st v).overflow = s.overflow := rfl
@[simp] theorem respond_awaitValid (ok : Bool) (st : BitVec 4) (v : Word16) : (s.respond ok st v).awaitValid = s.awaitValid := rfl
@[simp] theorem respond_awaitAddr (ok : Bool) (st : BitVec 4) (v : Word16) : (s.respond ok st v).awaitAddr = s.awaitAddr := rfl
@[simp] theorem respond_respAvail (ok : Bool) (st : BitVec 4) (v : Word16) : (s.respond ok st v).respAvail = s.respAvail := rfl
@[simp] theorem respond_de (ok : Bool) (st : BitVec 4) (v : Word16) : (s.respond ok st v).de = s.de := rfl
@[simp] theorem respond_tLastUs (ok : Bool) (st : BitVec 4) (v : Word16) : (s.respond ok st v).tLastUs = s.tLastUs := rfl
@[simp] theorem respond_tDeUs (ok : Bool) (st : BitVec 4) (v : Word16) : (s.respond ok st v).tDeUs = s.tDeUs := rfl
@[simp] theorem respond_tReqMs (ok : Bool) (st : BitVec 4) (v : Word16) : (s.respond ok st v).tReqMs = s.tReqMs := rfl
@[simp] theorem respond_starter (ok : Bool) (st : BitVec 4) (v : Word16) : (s.respond ok st v).starter = s.starter := rfl
@[simp] theorem respond_rspOk (ok : Bool) (st : BitVec 4) (v : Word16) : (s.respond ok st v).rspOk = ok := rfl
@[simp] theorem respond_rspStatus (ok : Bool) (st : BitVec 4) (v : Word16) : (s.respond ok st v).rspStatus = st := rfl
@[simp] theorem respond_rspValue (ok : Bool) (st : BitVec 4) (v : Word16) : (s.respond ok st v).rspValue = v := rfl
@[simp] theorem respond_pl (ok : Bool) (st : BitVec 4) (v : Word16) : (s.respond ok st v).pl = s.pl := rfl
@[simp] theorem respond_dst (ok : Bool) (st : BitVec 4) (v : Word16) : (s.respond ok st v).dst = s.dst := rfl
@[simp] theorem respond_rxFifo (ok : Bool) (st : BitVec 4) (v : Word16) : (s.respond ok st v).rxFifo = s.rxFifo := rfl
@[simp] theorem respond_txBusy (ok : Bool) (st : BitVec 4) (v : Word16) : (s.respond ok st v).txBusy = s.txBusy := rfl
@[simp] theorem respond_txComplete (ok : Bool) (st : BitVec 4) (v : Word16) : (s.respond ok st v).txComplete = s.txComplete := rfl
@[simp] theorem respond_txLog (ok : Bool) (st : BitVec 4) (v : Word16) : (s.respond ok st v).txLog = s.txLog := rfl
@[simp] theorem respond_nowUs (ok : Bool) (st : BitVec 4) (v : Word16) : (s.respond ok st v).nowUs = s.nowUs := rfl
@[simp] theorem respond_inputs (ok : Bool) (st : BitVec 4) (v : Word16) : (s.respond ok st v).inputs = s.inputs := rfl
@[simp] theorem respond_draws (ok : Bool) (st : BitVec 4) (v : Word16) : (s.respond ok st v).draws = s.draws := rfl

/-! ### putBytes -/

@[simp] theorem putBytes_params (a : Nat) (bs : List Byte) : (s.putBytes a bs).params = s.params := rfl
@[simp] theorem putBytes_configured (a : Nat) (bs : List Byte) : (s.putBytes a bs).configured = s.configured := rfl
@[simp] theorem putBytes_baud (a : Nat) (bs : List Byte) : (s.putBytes a bs).baud = s.baud := rfl
@[simp] theorem putBytes_myAddr (a : Nat) (bs : List Byte) : (s.putBytes a bs).myAddr = s.myAddr := rfl
@[simp] theorem putBytes_dePresent (a : Nat) (bs : List Byte) : (s.putBytes a bs).dePresent = s.dePresent := rfl
@[simp] theorem putBytes_t15 (a : Nat) (bs : List Byte) : (s.putBytes a bs).t15 = s.t15 := rfl
@[simp] theorem putBytes_t35 (a : Nat) (bs : List Byte) : (s.putBytes a bs).t35 = s.t35 := rfl
@[simp] theorem putBytes_buf (a : Nat) (bs : List Byte) : (s.putBytes a bs).buf = s.buf.writeBytes a bs := rfl
@[simp] theorem putBytes_len (a : Nat) (bs : List Byte) : (s.putBytes a bs).len = s.len := rfl
@[simp] theorem putBytes_outFunc (a : Nat) (bs : List Byte) : (s.putBytes a bs).outFunc = s.outFunc := rfl
@[simp] theorem putBytes_outStart (a : Nat) (bs : List Byte) : (s.putBytes a bs).outStart = s.outStart := rfl
@[simp] theorem putBytes_outCount (a : Nat) (bs : List Byte) : (s.putBytes a bs).outCount = s.outCount := rfl
@[simp] theorem putBytes_txc (a : Nat) (bs : List Byte) : (s.putBytes a bs).txc = s.txc := rfl
@[simp] theorem putBytes_rxActive (a : Nat) (bs : List Byte) : (s.putBytes a bs).rxActive = s.rxActive := rfl
@[simp] theorem putBytes_overflow (a : Nat) (bs : List Byte) : (s.putBytes a bs).overflow = s.overflow := rfl
@[simp] theorem putBytes_awaitValid (a : Nat) (bs : List Byte) : (s.putBytes a bs).awaitValid = s.awaitValid := rfl
@[simp] theorem putBytes_awaitAddr (a : Nat) (bs : List Byte) : (s.putBytes a bs).awaitAddr = s.awaitAddr := rfl
@[simp] theorem putBytes_respAvail (a : Nat) (bs : List Byte) : (s.putBytes a bs).respAvail = s.respAvail := rfl
@[simp] theorem putBytes_de (a : Nat) (bs : List Byte) : (s.putBytes a bs).de = s.de := rfl
@[simp] theorem putBytes_tLastUs (a : Nat) (bs : List Byte) : (s.putBytes a bs).tLastUs = s.tLastUs := rfl
@[simp] theorem putBytes_tDeUs (a : Nat) (bs : List Byte) : (s.putBytes a bs).tDeUs = s.tDeUs := rfl
@[simp] theorem putBytes_tReqMs (a : Nat) (bs : List Byte) : (s.putBytes a bs).tReqMs = s.tReqMs := rfl
@[simp] theorem putBytes_starter (a : Nat) (bs : List Byte) : (s.putBytes a bs).starter = s.starter := rfl
@[simp] theorem putBytes_rspOk (a : Nat) (bs : List Byte) : (s.putBytes a bs).rspOk = s.rspOk := rfl
@[simp] theorem putBytes_rspStatus (a : Nat) (bs : List Byte) : (s.putBytes a bs).rspStatus = s.rspStatus := rfl
@[simp] theorem putBytes_rspValue (a : Nat) (bs : List Byte) : (s.putBytes a bs).rspValue = s.rspValue := rfl
@[simp] theorem putBytes_pl (a : Nat) (bs : List Byte) : (s.putBytes a bs).pl = s.pl := rfl
@[simp] theorem putBytes_dst (a : Nat) (bs : List Byte) : (s.putBytes a bs).dst = s.dst := rfl
@[simp] theorem putBytes_rxFifo (a : Nat) (bs : List Byte) : (s.putBytes a bs).rxFifo = s.rxFifo := rfl
@[simp] theorem putBytes_txBusy (a : Nat) (bs : List Byte) : (s.putBytes a bs).txBusy = s.txBusy := rfl
@[simp] theorem putBytes_txComplete (a : Nat) (bs : List Byte) : (s.putBytes a bs).txComplete = s.txComplete := rfl
@[simp] theorem putBytes_txLog (a : Nat) (bs : List Byte) : (s.putBytes a bs).txLog = s.txLog := rfl
@[simp] theorem putBytes_nowUs (a : Nat) (bs : List Byte) : (s.putBytes a bs).nowUs = s.nowUs := rfl
@[simp] theorem putBytes_inputs (a : Nat) (bs : List Byte) : (s.putBytes a bs).inputs = s.inputs := rfl
@[simp] theorem putBytes_draws (a : Nat) (bs : List Byte) : (s.putBytes a bs).draws = s.draws := rfl

/-! ### clearMarker -/

@[simp] theorem clearMarker_params : (s.clearMarker).params = s.params := rfl
@[simp] theorem clearMarker_configured : (s.clearMarker).configured = s.configured := rfl
@[simp] theorem clearMarker_baud : (s.clearMarker).baud = s.baud := rfl
@[simp] theorem clearMarker_myAddr : (s.clearMarker).myAddr = s.myAddr := rfl
@[simp] theorem clearMarker_dePresent : (s.clearMarker).dePresent = s.dePresent := rfl
@[simp] theorem clearMarker_t15 : (s.clearMarker).t15 = s.t15 := rfl
@[simp] theorem clearMarker_t35 : (s.clearMarker).t35 = s.t35 := rfl
@[simp] theorem clearMarker_buf : (s.clearMarker).buf = s.buf := rfl
@[simp] theorem clearMarker_len : (s.clearMarker).len = s.len := rfl
@[simp] theorem clearMarker_outFunc : (s.clearMarker).outFunc = s.outFunc := rfl
@[simp] theorem clearMarker_outStart : (s.clearMarker).outStart = s.outStart := rfl
@[simp] theorem clearMarker_outCount : (s.clearMarker).outCount = s.outCount := rfl
@[simp] theorem clearMarker_txc : (s.clearMarker).txc = s.txc := rfl
@[simp] theorem clearMarker_rxActive : (s.clearMarker).rxActive = s.rxActive := rfl
@[simp] theorem clearMarker_overflow : (s.clearMarker).overflow = s.overflow := rfl
@[simp] theorem clearMarker_awaitValid : (s.clearMarker).awaitValid = false := rfl
@[simp] theorem clearMarker_awaitAddr : (s.clearMarker).awaitAddr = s.awaitAddr := rfl
@[simp] theorem clearMarker_respAvail : (s.clearMarker).respAvail = s.respAvail := rfl
@[simp] theorem clearMarker_de : (s.clearMarker).de = s.de := rfl
@[simp] theorem clearMarker_tLastUs : (s.clearMarker).tLastUs = s.tLastUs := rfl
@[simp] theorem clearMarker_tDeUs : (s.clearMarker).tDeUs = s.tDeUs := rfl
@[simp] theorem clearMarker_tReqMs : (s.clearMarker).tReqMs = s.tReqMs := rfl
@[simp] theorem clearMarker_starter : (s.clearMarker).starter = s.starter := rfl
@[simp] theorem clearMarker_rspOk : (s.clearMarker).rspOk = s.rspOk := rfl
@[simp] theorem clearMarker_rspStatus : (s.clearMarker).rspStatus = s.rspStatus := rfl
@[simp] theorem clearMarker_rspValue : (s.clearMarker).rspValue = s.rspValue := rfl
@[simp] theorem clearMarker_pl : (s.clearMarker).pl = s.pl := rfl
@[simp] theorem clearMarker_dst : (s.clearMarker).dst = s.dst := rfl
@[simp] theorem clearMarker_rxFifo : (s.clearMarker).rxFifo = s.rxFifo := rfl
@[simp] theorem clearMarker_txBusy : (s.clearMarker).txBusy = s.txBusy := rfl
@[simp] theorem clearMarker_txComplete : (s.clearMarker).txComplete = s.txComplete := rfl
@[simp] theorem clearMarker_txLog : (s.clearMarker).txLog = s.txLog := rfl
@[simp] theorem clearMarker_nowUs : (s.clearMarker).nowUs = s.nowUs := rfl
@[simp] theorem clearMarker_inputs : (s.clearMarker).inputs = s.inputs := rfl
@[simp] theorem clearMarker_draws : (s.clearMarker).draws = s.draws := rfl

/-! ### setMarker -/

@[simp] theorem setMarker_params (node : Byte) : (s.setMarker node).params = s.params := rfl
@[simp] theorem setMarker_configured (node : Byte) : (s.setMarker node).configured = s.configured := rfl
@[simp] theorem setMarker_baud (node : Byte) : (s.setMarker node).baud = s.baud := rfl
@[simp] theorem setMarker_myAddr (node : Byte) : (s.setMarker node).myAddr = s.myAddr := rfl
@[simp] theorem setMarker_dePresent (node : Byte) : (s.setMarker node).dePresent = s.dePresent := rfl
@[simp] theorem setMarker_t15 (node : Byte) : (s.setMarker node).t15 = s.t15 := rfl
@[simp] theorem setMarker_t35 (node : Byte) : (s.setMarker node).t35 = s.t35 := rfl
@[simp] theorem setMarker_buf (node : Byte) : (s.setMarker node).buf = s.buf := rfl
@[simp] theorem setMarker_len (node : Byte) : (s.setMarker node).len = s.len := rfl
@[simp] theorem setMarker_outFunc (node : Byte) : (s.setMarker node).outFunc = s.outFunc := rfl
@[simp] theorem setMarker_outStart (node : Byte) : (s.setMarker node).outStart = s.outStart := rfl
@[simp] theorem setMarker_outCount (node : Byte) : (s.setMarker node).outCount = s.outCount := rfl
@[simp] theorem setMarker_txc (node : Byte) : (s.setMarker node).txc = s.txc := rfl
@[simp] theorem setMarker_rxActive (node : Byte) : (s.setMarker node).rxActive = s.rxActive := rfl
@[simp] theorem setMarker_overflow (node : Byte) : (s.setMarker node).overflow = s.overflow := rfl
@[simp] theorem setMarker_awaitValid (node : Byte) : (s.setMarker node).awaitValid = true := rfl
@[simp] theorem setMarker_awaitAddr (node : Byte) : (s.setMarker node).awaitAddr = node := rfl
@[simp] theorem setMarker_respAvail (node : Byte) : (s.setMarker node).respAvail = s.respAvail := rfl
@[simp] theorem setMarker_de (node : Byte) : (s.setMarker node).de = s.de := rfl
@[simp] theorem setMarker_tLastUs (node : Byte) : (s.setMarker node).tLastUs = s.tLastUs := rfl
@[simp] theorem setMarker_tDeUs (node : Byte) : (s.setMarker node).tDeUs = s.tDeUs := rfl
@[simp] theorem setMarker_tReqMs (node : Byte) : (s.setMarker node).tReqMs = s.nowMs := rfl
@[simp] theorem setMarker_starter (node : Byte) : (s.setMarker node).starter = s.starter := rfl
@[simp] theorem setMarker_rspOk (node : Byte) : (s.setMarker node).rspOk = s.rspOk := rfl
@[simp] theorem setMarker_rspStatus (node : Byte) : (s.setMarker node).rspStatus = s.rspStatus := rfl
@[simp] theorem setMarker_rspValue (node : Byte) : (s.setMarker node).rspValue = s.rspValue := rfl
@[simp] theorem setMarker_pl (node : Byte) : (s.setMarker node).pl = s.pl := rfl
@[simp] theorem setMarker_dst (node : Byte) : (s.setMarker node).dst = s.dst := rfl
@[simp] theorem setMarker_rxFifo (node : Byte) : (s.setMarker node).rxFifo = s.rxFifo := rfl
@[simp] theorem setMarker_txBusy (node : Byte) : (s.setMarker node).txBusy = s.txBusy := rfl
@[simp] theorem setMarker_txComplete (node : Byte) : (s.setMarker node).txComplete = s.txComplete := rfl
@[simp] theorem setMarker_txLog (node : Byte) : (s.setMarker node).txLog = s.txLog := rfl
@[simp] theorem setMarker_nowUs (node : Byte) : (s.setMarker node).nowUs = s.nowUs := rfl
@[simp] theorem setMarker_inputs (node : Byte) : (s.setMarker node).inputs = s.inputs := rfl
@[simp] theorem setMarker_draws (node : Byte) : (s.setMarker node).draws = s.draws := rfl

/-! ### setRespAvail -/

@[simp] theorem setRespAvail_params (b : Bool) : (s.setRespAvail b).params = s.params := rfl
@[simp] theorem setRespAvail_configured (b : Bool) : (s.setRespAvail b).configured = s.configured := rfl
@[simp] theorem setRespAvail_baud (b : Bool) : (s.setRespAvail b).baud = s.baud := rfl
@[simp] theorem setRespAvail_myAddr (b : Bool) : (s.setRespAvail b).myAddr = s.myAddr := rfl
@[simp] theorem setRespAvail_dePresent (b : Bool) : (s.setRespAvail b).dePresent = s.dePresent := rfl
@[simp] theorem setRespAvail_t15 (b : Bool) : (s.setRespAvail b).t15 = s.t15 := rfl
@[simp] theorem setRespAvail_t35 (b : Bool) : (s.setRespAvail b).t35 = s.t35 := rfl
@[simp] theorem setRespAvail_buf (b : Bool) : (s.setRespAvail b).buf = s.buf := rfl
@[simp] theorem setRespAvail_len (b : Bool) : (s.setRespAvail b).len = s.len := rfl
@[simp] theorem setRespAvail_outFunc (b : Bool) : (s.setRespAvail b).outFunc = s.outFunc := rfl
@[simp] theorem setRespAvail_outStart (b : Bool) : (s.setRespAvail b).outStart = s.outStart := rfl
@[simp] theorem setRespAvail_outCount (b : Bool) : (s.setRespAvail b).outCount = s.outCount := rfl
@[simp] theorem setRespAvail_txc (b : Bool) : (s.setRespAvail b).txc = s.txc := rfl
@[simp] theorem setRespAvail_rxActive (b : Bool) : (s.setRespAvail b).rxActive = s.rxActive := rfl
@[simp] theorem setRespAvail_overflow (b : Bool) : (s.setRespAvail b).overflow = s.overflow := rfl
@[simp] theorem setRespAvail_awaitValid (b : Bool) : (s.setRespAvail b).awaitValid = s.awaitValid := rfl
@[simp] theorem setRespAvail_awaitAddr (b : Bool) : (s.setRespAvail b).awaitAddr = s.awaitAddr := rfl
@[simp] theorem setRespAvail_respAvail (b : Bool) : (s.setRespAvail b).respAvail = b := rfl
@[simp] theorem setRespAvail_de (b : Bool) : (s.setRespAvail b).de = s.de := rfl
@[simp] theorem setRespAvail_tLastUs (b : Bool) : (s.setRespAvail b).tLastUs = s.tLastUs := rfl
@[simp] theorem setRespAvail_tDeUs (b : Bool) : (s.setRespAvail b).tDeUs = s.tDeUs := rfl
@[simp] theorem setRespAvail_tReqMs (b : Bool) : (s.setRespAvail b).tReqMs = s.tReqMs := rfl
@[simp] theorem setRespAvail_starter (b : Bool) : (s.setRespAvail b).starter = s.starter := rfl
@[simp] theorem setRespAvail_rspOk (b : Bool) : (s.setRespAvail b).rspOk = s.rspOk := rfl
@[simp] theorem setRespAvail_rspStatus (b : Bool) : (s.setRespAvail b).rspStatus = s.rspStatus := rfl
@[simp] theorem setRespAvail_rspValue (b : Bool) : (s.setRespAvail b).rspValue = s.rspValue := rfl
@[simp] theorem setRespAvail_pl (b : Bool) : (s.setRespAvail b).pl = s.pl := rfl
@[simp] theorem setRespAvail_dst (b : Bool) : (s.setRespAvail b).dst = s.dst := rfl
@[simp] theorem setRespAvail_rxFifo (b : Bool) : (s.setRespAvail b).rxFifo = s.rxFifo := rfl
@[simp] theorem setRespAvail_txBusy (b : Bool) : (s.setRespAvail b).txBusy = s.txBusy := rfl
@[simp] theorem setRespAvail_txComplete (b : Bool) : (s.setRespAvail b).txComplete = s.txComplete := rfl
@[simp] theorem setRespAvail_txLog (b : Bool) : (s.setRespAvail b).txLog = s.txLog := rfl
@[simp] theorem setRespAvail_nowUs (b : Bool) : (s.setRespAvail b).nowUs = s.nowUs := rfl
@[simp] theorem setRespAvail_inputs (b : Bool) : (s.setRespAvail b).inputs = s.inputs := rfl
@[simp] theorem setRespAvail_draws (b : Bool) : (s.setRespAvail b).draws = s.draws := rfl

/-! ### endReceive -/

@[simp] theorem endReceive_params : (s.endReceive).params = s.params := rfl
@[simp] theorem endReceive_configured : (s.endReceive).configured = s.configured := rfl
@[simp] theorem endReceive_baud : (s.endReceive).baud = s.baud := rfl
@[simp] theorem endReceive_myAddr : (s.endReceive).myAddr = s.myAddr := rfl
@[simp] theorem endReceive_dePresent : (s.endReceive).dePresent = s.dePresent := rfl
@[simp] theorem endReceive_t15 : (s.endReceive).t15 = s.t15 := rfl
@[simp] theorem endReceive_t35 : (s.endReceive).t35 = s.t35 := rfl
@[simp] theorem endReceive_buf : (s.endReceive).buf = s.buf := rfl
@[simp] theorem endReceive_len : (s.endReceive).len = s.len := rfl
@[simp] theorem endReceive_outFunc : (s.endReceive).outFunc = s.outFunc := rfl
@[simp] theorem endReceive_outStart : (s.endReceive).outStart = s.outStart := rfl
@[simp] theorem endReceive_outCount : (s.endReceive).outCount = s.outCount := rfl
@[simp] theorem endReceive_txc : (s.endReceive).txc = s.txc := rfl
@[simp] theorem endReceive_rxActive : (s.endReceive).rxActive = false := rfl
@[simp] theorem endReceive_overflow : (s.endReceive).overflow = s.overflow := rfl
@[simp] theorem endReceive_awaitValid : (s.endReceive).awaitValid = s.awaitValid := rfl
@[simp] theorem endReceive_awaitAddr : (s.endReceive).awaitAddr = s.awaitAddr := rfl
@[simp] theorem endReceive_respAvail : (s.endReceive).respAvail = s.respAvail := rfl
@[simp] theorem endReceive_de : (s.endReceive).de = s.de := rfl
@[simp] theorem endReceive_tLastUs : (s.endReceive).tLastUs = s.tLastUs := rfl
@[simp] theorem endReceive_tDeUs : (s.endReceive).tDeUs = s.tDeUs := rfl
@[simp] theorem endReceive_tReqMs : (s.endReceive).tReqMs = s.tReqMs := rfl
@[simp] theorem endReceive_starter : (s.endReceive).starter = s.starter := rfl
@[simp] theorem endReceive_rspOk : (s.endReceive).rspOk = s.rspOk := rfl
@[simp] theorem endReceive_rspStatus : (s.endReceive).rspStatus = s.rspStatus := rfl
@[simp] theorem endReceive_rspValue : (s.endReceive).rspValue = s.rspValue := rfl
@[simp] theorem endReceive_pl : (s.endReceive).pl = s.pl := rfl
@[simp] theorem endReceive_dst : (s.endReceive).dst = s.dst := rfl
@[simp] theorem endReceive_rxFifo : (s.endReceive).rxFifo = s.rxFifo := rfl
@[simp] theorem endReceive_txBusy : (s.endReceive).txBusy = s.txBusy := rfl
@[simp] theorem endReceive_txComplete : (s.endReceive).txComplete = s.txComplete := rfl
@[simp] theorem endReceive_txLog : (s.endReceive).txLog = s.txLog := rfl
@[simp] theorem endReceive_nowUs : (s.endReceive).nowUs = s.nowUs := rfl
@[simp] theorem endReceive_inputs : (s.endReceive).inputs = s.inputs := rfl
@[simp] theorem endReceive_draws : (s.endReceive).draws = s.draws := rfl

/-! ### beginFrame -/

@[simp] theorem beginFrame_params : (s.beginFrame).params = s.params := rfl
@[simp] theorem beginFrame_configured : (s.beginFrame).configured = s.configured := rfl
@[simp] theorem beginFrame_baud : (s.beginFrame).baud = s.baud := rfl
@[simp] theorem beginFrame_myAddr : (s.beginFrame).myAddr = s.myAddr := rfl
@[simp] theorem beginFrame_dePresent : (s.beginFrame).dePresent = s.dePresent := rfl
@[simp] theorem beginFrame_t15 : (s.beginFrame).t15 = s.t15 := rfl
@[simp] theorem beginFrame_t35 : (s.beginFrame).t35 = s.t35 := rfl
@[simp] theorem beginFrame_buf : (s.beginFrame).buf = s.buf := rfl
@[simp] theorem beginFrame_len : (s.beginFrame).len = 0 := rfl
@[simp] theorem beginFrame_outFunc : (s.beginFrame).outFunc = s.outFunc := rfl
@[simp] theorem beginFrame_outStart : (s.beginFrame).outStart = s.outStart := rfl
@[simp] theorem beginFrame_outCount : (s.beginFrame).outCount = s.outCount := rfl
@[simp] theorem beginFrame_txc : (s.beginFrame).txc = s.txc := rfl
@[simp] theorem beginFrame_rxActive : (s.beginFrame).rxActive = true := rfl
@[simp] theorem beginFrame_overflow : (s.beginFrame).overflow = false := rfl
@[simp] theorem beginFrame_awaitValid : (s.beginFrame).awaitValid = s.awaitValid := rfl
@[simp] theorem beginFrame_awaitAddr : (s.beginFrame).awaitAddr = s.awaitAddr := rfl
@[simp] theorem beginFrame_respAvail : (s.beginFrame).respAvail = false := rfl
@[simp] theorem beginFrame_de : (s.beginFrame).de = s.de := rfl
@[simp] theorem beginFrame_tLastUs : (s.beginFrame).tLastUs = s.tLastUs := rfl
@[simp] theorem beginFrame_tDeUs : (s.beginFrame).tDeUs = s.tDeUs := rfl
@[simp] theorem beginFrame_tReqMs : (s.beginFrame).tReqMs = s.tReqMs := rfl
@[simp] theorem beginFrame_starter : (s.beginFrame).starter = s.starter := rfl
@[simp] theorem beginFrame_rspOk : (s.beginFrame).rspOk = s.rspOk := rfl
@[simp] theorem beginFrame_rspStatus : (s.beginFrame).rspStatus = s.rspStatus := rfl
@[simp] theorem beginFrame_rspValue : (s.beginFrame).rspValue = s.rspValue := rfl
@[simp] theorem beginFrame_pl : (s.beginFrame).pl = s.pl := rfl
@[simp] theorem beginFrame_dst : (s.beginFrame).dst = s.dst := rfl
@[simp] theorem beginFrame_rxFifo : (s.beginFrame).rxFifo = s.rxFifo := rfl
@[simp] theorem beginFrame_txBusy : (s.beginFrame).txBusy = s.txBusy := rfl
@[simp] theorem beginFrame_txComplete : (s.beginFrame).txComplete = s.txComplete := rfl
@[simp] theorem beginFrame_txLog : (s.beginFrame).txLog = s.txLog := rfl
@[simp] theorem beginFrame_nowUs : (s.beginFrame).nowUs = s.nowUs := rfl
@[simp] theorem beginFrame_inputs : (s.beginFrame).inputs = s.inputs := rfl
@[simp] theorem beginFrame_draws : (s.beginFrame).draws = s.draws := rfl

/-! ### stampLast -/

@[simp] theorem stampLast_params : (s.stampLast).params = s.params := rfl
@[simp] theorem stampLast_configured : (s.stampLast).configured = s.configured := rfl
@[simp] theorem stampLast_baud : (s.stampLast).baud = s.baud := rfl
@[simp] theorem stampLast_myAddr : (s.stampLast).myAddr = s.myAddr := rfl
@[simp] theorem stampLast_dePresent : (s.stampLast).dePresent = s.dePresent := rfl
@[simp] theorem stampLast_t15 : (s.stampLast).t15 = s.t15 := rfl
@[simp] theorem stampLast_t35 : (s.stampLast).t35 = s.t35 := rfl
@[simp] theorem stampLast_buf : (s.stampLast).buf = s.buf := rfl
@[simp] theorem stampLast_len : (s.stampLast).len = s.len := rfl
@[simp] theorem stampLast_outFunc : (s.stampLast).outFunc = s.outFunc := rfl
@[simp] theorem stampLast_outStart : (s.stampLast).outStart = s.outStart := rfl
@[simp] theorem stampLast_outCount : (s.stampLast).outCount = s.outCount := rfl
@[simp] theorem stampLast_txc : (s.stampLast).txc = s.txc := rfl
@[simp] theorem stampLast_rxActive : (s.stampLast).rxActive = s.rxActive := rfl
@[simp] theorem stampLast_overflow : (s.stampLast).overflow = s.overflow := rfl
@[simp] theorem stampLast_awaitValid : (s.stampLast).awaitValid = s.awaitValid := rfl
@[simp] theorem stampLast_awaitAddr : (s.stampLast).awaitAddr = s.awaitAddr := rfl
@[simp] theorem stampLast_respAvail : (s.stampLast).respAvail = s.respAvail := rfl
@[simp] theorem stampLast_de : (s.stampLast).de = s.de := rfl
@[simp] theorem stampLast_tLastUs : (s.stampLast).tLastUs = s.nowUs := rfl
@[simp] theorem stampLast_tDeUs : (s.stampLast).tDeUs = s.tDeUs := rfl
@[simp] theorem stampLast_tReqMs : (s.stampLast).tReqMs = s.tReqMs := rfl
@[simp] theorem stampLast_starter : (s.stampLast).starter = s.starter := rfl
@[simp] theorem stampLast_rspOk : (s.stampLast).rspOk = s.rspOk := rfl
@[simp] theorem stampLast_rspStatus : (s.stampLast).rspStatus = s.rspStatus := rfl
@[simp] theorem stampLast_rspValue : (s.stampLast).rspValue = s.rspValue := rfl
@[simp] theorem stampLast_pl : (s.stampLast).pl = s.pl := rfl
@[simp] theorem stampLast_dst : (s.stampLast).dst = s.dst := rfl
@[simp] theorem stampLast_rxFifo : (s.stampLast).rxFifo = s.rxFifo := rfl
@[simp] theorem stampLast_txBusy : (s.stampLast).txBusy = s.txBusy := rfl
@[simp] theorem stampLast_txComplete : (s.stampLast).txComplete = s.txComplete := rfl
@[simp] theorem stampLast_txLog : (s.stampLast).txLog = s.txLog := rfl
@[simp] theorem stampLast_nowUs : (s.stampLast).nowUs = s.nowUs := rfl
@[simp] theorem stampLast_inputs : (s.stampLast).inputs = s.inputs := rfl
@[simp] theorem stampLast_draws : (s.stampLast).draws = s.draws := rfl

/-! ### rxFlush -/

@[simp] theorem rxFlush_params : (s.rxFlush).params = s.params := rfl
@[simp] theorem rxFlush_configured : (s.rxFlush).configured = s.configured := rfl
@[simp] theorem rxFlush_baud : (s.rxFlush).baud = s.baud := rfl
@[simp] theorem rxFlush_myAddr : (s.rxFlush).myAddr = s.myAddr := rfl
@[simp] theorem rxFlush_dePresent : (s.rxFlush).dePresent = s.dePresent := rfl
@[simp] theorem rxFlush_t15 : (s.rxFlush).t15 = s.t15 := rfl
@[simp] theorem rxFlush_t35 : (s.rxFlush).t35 = s.t35 := rfl
@[simp] theorem rxFlush_buf : (s.rxFlush).buf = s.buf := rfl
@[simp] theorem rxFlush_len : (s.rxFlush).len = s.len := rfl
@[simp] theorem rxFlush_outFunc : (s.rxFlush).outFunc = s.outFunc := rfl
@[simp] theorem rxFlush_outStart : (s.rxFlush).outStart = s.outStart := rfl
@[simp] theorem rxFlush_outCount : (s.rxFlush).outCount = s.outCount := rfl
@[simp] theorem rxFlush_txc : (s.rxFlush).txc = s.txc := rfl
@[simp] theorem rxFlush_rxActive : (s.rxFlush).rxActive = s.rxActive := rfl
@[simp] theorem rxFlush_overflow : (s.rxFlush).overflow = s.overflow := rfl
@[simp] theorem rxFlush_awaitValid : (s.rxFlush).awaitValid = s.awaitValid := rfl
@[simp] theorem rxFlush_awaitAddr : (s.rxFlush).awaitAddr = s.awaitAddr := rfl
@[simp] theorem rxFlush_respAvail : (s.rxFlush).respAvail = s.respAvail := rfl
@[simp] theorem rxFlush_de : (s.rxFlush).de = s.de := rfl
@[simp] theorem rxFlush_tLastUs : (s.rxFlush).tLastUs = s.tLastUs := rfl
@[simp] theorem rxFlush_tDeUs : (s.rxFlush).tDeUs = s.tDeUs := rfl
@[simp] theorem rxFlush_tReqMs : (s.rxFlush).tReqMs = s.tReqMs := rfl
@[simp] theorem rxFlush_starter : (s.rxFlush).starter = s.starter := rfl
@[simp] theorem rxFlush_rspOk : (s.rxFlush).rspOk = s.rspOk := rfl
@[simp] theorem rxFlush_rspStatus : (s.rxFlush).rspStatus = s.rspStatus := rfl
@[simp] theorem rxFlush_rspValue : (s.rxFlush).rspValue = s.rspValue := rfl
@[simp] theorem rxFlush_pl : (s.rxFlush).pl = s.pl := rfl
@[simp] theorem rxFlush_dst : (s.rxFlush).dst = s.dst := rfl
@[simp] theorem rxFlush_rxFifo : (s.rxFlush).rxFifo = [] := rfl
@[simp] theorem rxFlush_txBusy : (s.rxFlush).txBusy = s.txBusy := rfl
@[simp] theorem rxFlush_txComplete : (s.rxFlush).txComplete = s.txComplete := rfl
@[simp] theorem rxFlush_txLog : (s.rxFlush).txLog = s.txLog := rfl
@[simp] theorem rxFlush_nowUs : (s.rxFlush).nowUs = s.nowUs := rfl
@[simp] theorem rxFlush_inputs : (s.rxFlush).inputs = s.inputs := rfl
@[simp] theorem rxFlush_draws : (s.rxFlush).draws = s.draws := rfl

/-! ### txWrite -/

@[simp] theorem txWrite_params (bs : List Byte) : (s.txWrite bs).params = s.params := rfl
@[simp] theorem txWrite_configured (bs : List Byte) : (s.txWrite bs).configured = s.configured := rfl
@[simp] theorem txWrite_baud (bs : List Byte) : (s.txWrite bs).baud = s.baud := rfl
@[simp] theorem txWrite_myAddr (bs : List Byte) : (s.txWrite bs).myAddr = s.myAddr := rfl
@[simp] theorem txWrite_dePresent (bs : List Byte) : (s.txWrite bs).dePresent = s.dePresent := rfl
@[simp] theorem txWrite_t15 (bs : List Byte) : (s.txWrite bs).t15 = s.t15 := rfl
@[simp] theorem txWrite_t35 (bs : List Byte) : (s.txWrite bs).t35 = s.t35 := rfl
@[simp] theorem txWrite_buf (bs : List Byte) : (s.txWrite bs).buf = s.buf := rfl
@[simp] theorem txWrite_len (bs : List Byte) : (s.txWrite bs).len = s.len := rfl
@[simp] theorem txWrite_outFunc (bs : List Byte) : (s.txWrite bs).outFunc = s.outFunc := rfl
@[simp] theorem txWrite_outStart (bs : List Byte) : (s.txWrite bs).outStart = s.outStart := rfl
@[simp] theorem txWrite_outCount (bs : List Byte) : (s.txWrite bs).outCount = s.outCount := rfl
@[simp] theorem txWrite_txc (bs : List Byte) : (s.txWrite bs).txc = s.txc := rfl
@[simp] theorem txWrite_rxActive (bs : List Byte) : (s.txWrite bs).rxActive = s.rxActive := rfl
@[simp] theorem txWrite_overflow (bs : List Byte) : (s.txWrite bs).overflow = s.overflow := rfl
@[simp] theorem txWrite_awaitValid (bs : List Byte) : (s.txWrite bs).awaitValid = s.awaitValid := rfl
@[simp] theorem txWrite_awaitAddr (bs : List Byte) : (s.txWrite bs).awaitAddr = s.awaitAddr := rfl
@[simp] theorem txWrite_respAvail (bs : List Byte) : (s.txWrite bs).respAvail = s.respAvail := rfl
@[simp] theorem txWrite_de (bs : List Byte) : (s.txWrite bs).de = s.de := rfl
@[simp] theorem txWrite_tLastUs (bs : List Byte) : (s.txWrite bs).tLastUs = s.tLastUs := rfl
@[simp] theorem txWrite_tDeUs (bs : List Byte) : (s.txWrite bs).tDeUs = s.tDeUs := rfl
@[simp] theorem txWrite_tReqMs (bs : List Byte) : (s.txWrite bs).tReqMs = s.tReqMs := rfl
@[simp] theorem txWrite_starter (bs : List Byte) : (s.txWrite bs).starter = s.starter := rfl
@[simp] theorem txWrite_rspOk (bs : List Byte) : (s.txWrite bs).rspOk = s.rspOk := rfl
@[simp] theorem txWrite_rspStatus (bs : List Byte) : (s.txWrite bs).rspStatus = s.rspStatus := rfl
@[simp] theorem txWrite_rspValue (bs : List Byte) : (s.txWrite bs).rspValue = s.rspValue := rfl
@[simp] theorem txWrite_pl (bs : List Byte) : (s.txWrite bs).pl = s.pl := rfl
@[simp] theorem txWrite_dst (bs : List Byte) : (s.txWrite bs).dst = s.dst := rfl
@[simp] theorem txWrite_rxFifo (bs : List Byte) : (s.txWrite bs).rxFifo = s.rxFifo := rfl
@[simp] theorem txWrite_txBusy (bs : List Byte) : (s.txWrite bs).txBusy = true := rfl
@[simp] theorem txWrite_txComplete (bs : List Byte) : (s.txWrite bs).txComplete = false := rfl
@[simp] theorem txWrite_txLog (bs : List Byte) : (s.txWrite bs).txLog = s.txLog ++ bs := rfl
@[simp] theorem txWrite_nowUs (bs : List Byte) : (s.txWrite bs).nowUs = s.nowUs := rfl
@[simp] theorem txWrite_inputs (bs : List Byte) : (s.txWrite bs).inputs = s.inputs := rfl
@[simp] theorem txWrite_draws (bs : List Byte) : (s.txWrite bs).draws = s.draws := rfl

/-! ### setDe -/

@[simp] theorem setDe_params (b : Bool) : (s.setDe b).params = s.params := rfl
@[simp] theorem setDe_configured (b : Bool) : (s.setDe b).configured = s.configured := rfl
@[simp] theorem setDe_baud (b : Bool) : (s.setDe b).baud = s.baud := rfl
@[simp] theorem setDe_myAddr (b : Bool) : (s.setDe b).myAddr = s.myAddr := rfl
@[simp] theorem setDe_dePresent (b : Bool) : (s.setDe b).dePresent = s.dePresent := rfl
@[simp] theorem setDe_t15 (b : Bool) : (s.setDe b).t15 = s.t15 := rfl
@[simp] theorem setDe_t35 (b : Bool) : (s.setDe b).t35 = s.t35 := rfl
@[simp] theorem setDe_buf (b : Bool) : (s.setDe b).buf = s.buf := rfl
@[simp] theorem setDe_len (b : Bool) : (s.setDe b).len = s.len := rfl
@[simp] theorem setDe_outFunc (b : Bool) : (s.setDe b).outFunc = s.outFunc := rfl
@[simp] theorem setDe_outStart (b : Bool) : (s.setDe b).outStart = s.outStart := rfl
@[simp] theorem setDe_outCount (b : Bool) : (s.setDe b).outCount = s.outCount := rfl
@[simp] theorem setDe_txc (b : Bool) : (s.setDe b).txc = s.txc := rfl
@[simp] theorem setDe_rxActive (b : Bool) : (s.setDe b).rxActive = s.rxActive := rfl
@[simp] theorem setDe_overflow (b : Bool) : (s.setDe b).overflow = s.overflow := rfl
@[simp] theorem setDe_awaitValid (b : Bool) : (s.setDe b).awaitValid = s.awaitValid := rfl
@[simp] theorem setDe_awaitAddr (b : Bool) : (s.setDe b).awaitAddr = s.awaitAddr := rfl
@[simp] theorem setDe_respAvail (b : Bool) : (s.setDe b).respAvail = s.respAvail := rfl
@[simp] theorem setDe_de (b : Bool) : (s.setDe b).de = b := rfl
@[simp] theorem setDe_tLastUs (b : Bool) : (s.setDe b).tLastUs = s.tLastUs := rfl
@[simp] theorem setDe_tDeUs (b : Bool) : (s.setDe b).tDeUs = s.tDeUs := rfl
@[simp] theorem setDe_tReqMs (b : Bool) : (s.setDe b).tReqMs = s.tReqMs := rfl
@[simp] theorem setDe_starter (b : Bool) : (s.setDe b).starter = s.starter := rfl
@[simp] theorem setDe_rspOk (b : Bool) : (s.setDe b).rspOk = s.rspOk := rfl
@[simp] theorem setDe_rspStatus (b : Bool) : (s.setDe b).rspStatus = s.rspStatus := rfl
@[simp] theorem setDe_rspValue (b : Bool) : (s.setDe b).rspValue = s.rspValue := rfl
@[simp] theorem setDe_pl (b : Bool) : (s.setDe b).pl = s.pl := rfl
@[simp] theorem setDe_dst (b : Bool) : (s.setDe b).dst = s.dst := rfl
@[simp] theorem setDe_rxFifo (b : Bool) : (s.setDe b).rxFifo = s.rxFifo := rfl
@[simp] theorem setDe_txBusy (b : Bool) : (s.setDe b).txBusy = s.txBusy := rfl
@[simp] theorem setDe_txComplete (b : Bool) : (s.setDe b).txComplete = s.txComplete := rfl
@[simp] theorem setDe_txLog (b : Bool) : (s.setDe b).txLog = s.txLog := rfl
@[simp] theorem setDe_nowUs (b : Bool) : (s.setDe b).nowUs = s.nowUs := rfl
@[simp] theorem setDe_inputs (b : Bool) : (s.setDe b).inputs = s.inputs := rfl
@[simp] theorem setDe_draws (b : Bool) : (s.setDe b).draws = s.draws := rfl

/-! ### setTxc -/

@[simp] theorem setTxc_params (c : Txc) : (s.setTxc c).params = s.params := rfl
@[simp] theorem setTxc_configured (c : Txc) : (s.setTxc c).configured = s.configured := rfl
@[simp] theorem setTxc_baud (c : Txc) : (s.setTxc c).baud = s.baud := rfl
@[simp] theorem setTxc_myAddr (c : Txc) : (s.setTxc c).myAddr = s.myAddr := rfl
@[simp] theorem setTxc_dePresent (c : Txc) : (s.setTxc c).dePresent = s.dePresent := rfl
@[simp] theorem setTxc_t15 (c : Txc) : (s.setTxc c).t15 = s.t15 := rfl
@[simp] theorem setTxc_t35 (c : Txc) : (s.setTxc c).t35 = s.t35 := rfl
@[simp] theorem setTxc_buf (c : Txc) : (s.setTxc c).buf = s.buf := rfl
@[simp] theorem setTxc_len (c : Txc) : (s.setTxc c).len = s.len := rfl
@[simp] theorem setTxc_outFunc (c : Txc) : (s.setTxc c).outFunc = s.outFunc := rfl
@[simp] theorem setTxc_outStart (c : Txc) : (s.setTxc c).outStart = s.outStart := rfl
@[simp] theorem setTxc_outCount (c : Txc) : (s.setTxc c).outCount = s.outCount := rfl
@[simp] theorem setTxc_txc (c : Txc) : (s.setTxc c).txc = c := rfl
@[simp] theorem setTxc_rxActive (c : Txc) : (s.setTxc c).rxActive = s.rxActive := rfl
@[simp] theorem setTxc_overflow (c : Txc) : (s.setTxc c).overflow = s.overflow := rfl
@[simp] theorem setTxc_awaitValid (c : Txc) : (s.setTxc c).awaitValid = s.awaitValid := rfl
@[simp] theorem setTxc_awaitAddr (c : Txc) : (s.setTxc c).awaitAddr = s.awaitAddr := rfl
@[simp] theorem setTxc_respAvail (c : Txc) : (s.setTxc c).respAvail = s.respAvail := rfl
@[simp] theorem setTxc_de (c : Txc) : (s.setTxc c).de = s.de := rfl
@[simp] theorem setTxc_tLastUs (c : Txc) : (s.setTxc c).tLastUs = s.tLastUs := rfl
@[simp] theorem setTxc_tDeUs (c : Txc) : (s.setTxc c).tDeUs = s.tDeUs := rfl
@[simp] theorem setTxc_tReqMs (c : Txc) : (s.setTxc c).tReqMs = s.tReqMs := rfl
@[simp] theorem setTxc_starter (c : Txc) : (s.setTxc c).starter = s.starter := rfl
@[simp] theorem setTxc_rspOk (c : Txc) : (s.setTxc c).rspOk = s.rspOk := rfl
@[simp] theorem setTxc_rspStatus (c : Txc) : (s.setTxc c).rspStatus = s.rspStatus := rfl
@[simp] theorem setTxc_rspValue (c : Txc) : (s.setTxc c).rspValue = s.rspValue := rfl
@[simp] theorem setTxc_pl (c : Txc) : (s.setTxc c).pl = s.pl := rfl
@[simp] theorem setTxc_dst (c : Txc) : (s.setTxc c).dst = s.dst := rfl
@[simp] theorem setTxc_rxFifo (c : Txc) : (s.setTxc c).rxFifo = s.rxFifo := rfl
@[simp] theorem setTxc_txBusy (c : Txc) : (s.setTxc c).txBusy = s.txBusy := rfl
@[simp] theorem setTxc_txComplete (c : Txc) : (s.setTxc c).txComplete = s.txComplete := rfl
@[simp] theorem setTxc_txLog (c : Txc) : (s.setTxc c).txLog = s.txLog := rfl
@[simp] theorem setTxc_nowUs (c : Txc) : (s.setTxc c).nowUs = s.nowUs := rfl
@[simp] theorem setTxc_inputs (c : Txc) : (s.setTxc c).inputs = s.inputs := rfl
@[simp] theorem setTxc_draws (c : Txc) : (s.setTxc c).draws = s.draws := rfl

/-! ### draw -/

@[simp] theorem draw_params : (s.draw).params = s.params := rfl
@[simp] theorem draw_configured : (s.draw).configured = s.configured := rfl
@[simp] theorem draw_baud : (s.draw).baud = s.baud := rfl
@[simp] theorem draw_myAddr : (s.draw).myAddr = s.myAddr := rfl
@[simp] theorem draw_dePresent : (s.draw).dePresent = s.dePresent := rfl
@[simp] theorem draw_t15 : (s.draw).t15 = s.t15 := rfl
@[simp] theorem draw_t35 : (s.draw).t35 = s.t35 := rfl
@[simp] theorem draw_buf : (s.draw).buf = s.buf := rfl
@[simp] theorem draw_len : (s.draw).len = s.len := rfl
@[simp] theorem draw_outFunc : (s.draw).outFunc = s.outFunc := rfl
@[simp] theorem draw_outStart : (s.draw).outStart = s.outStart := rfl
@[simp] theorem draw_outCount : (s.draw).outCount = s.outCount := rfl
@[simp] theorem draw_txc : (s.draw).txc = s.txc := rfl
@[simp] theorem draw_rxActive : (s.draw).rxActive = s.rxActive := rfl
@[simp] theorem draw_overflow : (s.draw).overflow = s.overflow := rfl
@[simp] theorem draw_awaitValid : (s.draw).awaitValid = s.awaitValid := rfl
@[simp] theorem draw_awaitAddr : (s.draw).awaitAddr = s.awaitAddr := rfl
@[simp] theorem draw_respAvail : (s.draw).respAvail = s.respAvail := rfl
@[simp] theorem draw_de : (s.draw).de = s.de := rfl
@[simp] theorem draw_tLastUs : (s.draw).tLastUs = s.tLastUs := rfl
@[simp] theorem draw_tDeUs : (s.draw).tDeUs = s.tDeUs := rfl
@[simp] theorem draw_tReqMs : (s.draw).tReqMs = s.tReqMs := rfl
@[simp] theorem draw_starter : (s.draw).starter = s.starter := rfl
@[simp] theorem draw_rspOk : (s.draw).rspOk = s.rspOk := rfl
@[simp] theorem draw_rspStatus : (s.draw).rspStatus = s.rspStatus := rfl
@[simp] theorem draw_rspValue : (s.draw).rspValue = s.rspValue := rfl
@[simp] theorem draw_pl : (s.draw).pl = s.pl := rfl
@[simp] theorem draw_dst : (s.draw).dst = s.dst := rfl
@[simp] theorem draw_rxFifo : (s.draw).rxFifo = s.rxFifo := rfl
@[simp] theorem draw_txBusy : (s.draw).txBusy = s.txBusy := rfl
@[simp] theorem draw_txComplete : (s.draw).txComplete = s.txComplete := rfl
@[simp] theorem draw_txLog : (s.draw).txLog = s.txLog := rfl
@[simp] theorem draw_nowUs : (s.draw).nowUs = s.nowUs := rfl
@[simp] theorem draw_inputs : (s.draw).inputs = s.inputs := rfl
@[simp] theorem draw_draws : (s.draw).draws = s.draws + 1 := rfl

/-! ### startSend -/

@[simp] theorem startSend_params (who : Starter) : (s.startSend who).params = s.params := rfl
@[simp] theorem startSend_configured (who : Starter) : (s.startSend who).configured = s.configured := rfl
@[simp] theorem startSend_baud (who : Starter) : (s.startSend who).baud = s.baud := rfl
@[simp] theorem startSend_myAddr (who : Starter) : (s.startSend who).myAddr = s.myAddr := rfl
@[simp] theorem startSend_dePresent (who : Starter) : (s.startSend who).dePresent = s.dePresent := rfl
@[simp] theorem startSend_t15 (who : Starter) : (s.startSend who).t15 = s.t15 := rfl
@[simp] theorem startSend_t35 (who : Starter) : (s.startSend who).t35 = s.t35 := rfl
@[simp] theorem startSend_buf (who : Starter) : (s.startSend who).buf = s.buf := rfl
@[simp] theorem startSend_len (who : Starter) : (s.startSend who).len = s.len := rfl
@[simp] theorem startSend_outFunc (who : Starter) : (s.startSend who).outFunc = s.outFunc := rfl
@[simp] theorem startSend_outStart (who : Starter) : (s.startSend who).outStart = s.outStart := rfl
@[simp] theorem startSend_outCount (who : Starter) : (s.startSend who).outCount = s.outCount := rfl
@[simp] theorem startSend_txc (who : Starter) : (s.startSend who).txc = .waitSilence := rfl
@[simp] theorem startSend_rxActive (who : Starter) : (s.startSend who).rxActive = s.rxActive := rfl
@[simp] theorem startSend_overflow (who : Starter) : (s.startSend who).overflow = s.overflow := rfl
@[simp] theorem startSend_awaitValid (who : Starter) : (s.startSend who).awaitValid = s.awaitValid := rfl
@[simp] theorem startSend_awaitAddr (who : Starter) : (s.startSend who).awaitAddr = s.awaitAddr := rfl
@[simp] theorem startSend_respAvail (who : Starter) : (s.startSend who).respAvail = s.respAvail := rfl
@[simp] theorem startSend_de (who : Starter) : (s.startSend who).de = s.de := rfl
@[simp] theorem startSend_tLastUs (who : Starter) : (s.startSend who).tLastUs = s.tLastUs := rfl
@[simp] theorem startSend_tDeUs (who : Starter) : (s.startSend who).tDeUs = s.tDeUs := rfl
@[simp] theorem startSend_tReqMs (who : Starter) : (s.startSend who).tReqMs = s.tReqMs := rfl
@[simp] theorem startSend_starter (who : Starter) : (s.startSend who).starter = some who := rfl
@[simp] theorem startSend_rspOk (who : Starter) : (s.startSend who).rspOk = s.rspOk := rfl
@[simp] theorem startSend_rspStatus (who : Starter) : (s.startSend who).rspStatus = s.rspStatus := rfl
@[simp] theorem startSend_rspValue (who : Starter) : (s.startSend who).rspValue = s.rspValue := rfl
@[simp] theorem startSend_pl (who : Starter) : (s.startSend who).pl = s.pl := rfl
@[simp] theorem startSend_dst (who : Starter) : (s.startSend who).dst = s.dst := rfl
@[simp] theorem startSend_rxFifo (who : Starter) : (s.startSend who).rxFifo = s.rxFifo := rfl
@[simp] theorem startSend_txBusy (who : Starter) : (s.startSend who).txBusy = s.txBusy := rfl
@[simp] theorem startSend_txComplete (who : Starter) : (s.startSend who).txComplete = s.txComplete := rfl
@[simp] theorem startSend_txLog (who : Starter) : (s.startSend who).txLog = s.txLog := rfl
@[simp] theorem startSend_nowUs (who : Starter) : (s.startSend who).nowUs = s.nowUs := rfl
@[simp] theorem startSend_inputs (who : Starter) : (s.startSend who).inputs = s.inputs := rfl
@[simp] theorem startSend_draws (who : Starter) : (s.startSend who).draws = s.draws := rfl

/-! ### setConfig -/

@[simp] theorem setConfig_params (baud : BitVec 32) (addr : Byte) (dep : Bool) : (s.setConfig baud addr dep).params = s.params := rfl
@[simp] theorem setConfig_configured (baud : BitVec 32) (addr : Byte) (dep : Bool) : (s.setConfig baud addr dep).configured = true := rfl
@[simp] theorem setConfig_baud (baud : BitVec 32) (addr : Byte) (dep : Bool) : (s.setConfig baud addr dep).baud = baud := rfl
@[simp] theorem setConfig_myAddr (baud : BitVec 32) (addr : Byte) (dep : Bool) : (s.setConfig baud addr dep).myAddr = addr := rfl
@[simp] theorem setConfig_dePresent (baud : BitVec 32) (addr : Byte) (dep : Bool) : (s.setConfig baud addr dep).dePresent = dep := rfl
@[simp] theorem setConfig_t15 (baud : BitVec 32) (addr : Byte) (dep : Bool) : (s.setConfig baud addr dep).t15 = durationT15 baud := rfl
@[simp] theorem setConfig_t35 (baud : BitVec 32) (addr : Byte) (dep : Bool) : (s.setConfig baud addr dep).t35 = durationT35 baud := rfl
@[simp] theorem setConfig_buf (baud : BitVec 32) (addr : Byte) (dep : Bool) : (s.setConfig baud addr dep).buf = s.buf := rfl
@[simp] theorem setConfig_len (baud : BitVec 32) (addr : Byte) (dep : Bool) : (s.setConfig baud addr dep).len = s.len := rfl
@[simp] theorem setConfig_outFunc (baud : BitVec 32) (addr : Byte) (dep : Bool) : (s.setConfig baud addr dep).outFunc = s.outFunc := rfl
@[simp] theorem setConfig_outStart (baud : BitVec 32) (addr : Byte) (dep : Bool) : (s.setConfig baud addr dep).outStart = s.outStart := rfl
@[simp] theorem setConfig_outCount (baud : BitVec 32) (addr : Byte) (dep : Bool) : (s.setConfig baud addr dep).outCount = s.outCount := rfl
@[simp] theorem setConfig_txc (baud : BitVec 32) (addr : Byte) (dep : Bool) : (s.setConfig baud addr dep).txc = s.txc := rfl
@[simp] theorem setConfig_rxActive (baud : BitVec 32) (addr : Byte) (dep : Bool) : (s.setConfig baud addr dep).rxActive = s.rxActive := rfl
@[simp] theorem setConfig_overflow (baud : BitVec 32) (addr : Byte) (dep : Bool) : (s.setConfig baud addr dep).overflow = s.overflow := rfl
@[simp] theorem setConfig_awaitValid (baud : BitVec 32) (addr : Byte) (dep : Bool) : (s.setConfig baud addr dep).awaitValid = s.awaitValid := rfl
@[simp] theorem setConfig_awaitAddr (baud : BitVec 32) (addr : Byte) (dep : Bool) : (s.setConfig baud addr dep).awaitAddr = s.awaitAddr := rfl
@[simp] theorem setConfig_respAvail (baud : BitVec 32) (addr : Byte) (dep : Bool) : (s.setConfig baud addr dep).respAvail = s.respAvail := rfl
@[simp] theorem setConfig_de (baud : BitVec 32) (addr : Byte) (dep : Bool) : (s.setConfig baud addr dep).de = s.de := rfl
@[simp] theorem setConfig_tLastUs (baud : BitVec 32) (addr : Byte) (dep : Bool) : (s.setConfig baud addr dep).tLastUs = s.tLastUs := rfl
@[simp] theorem setConfig_tDeUs (baud : BitVec 32) (addr : Byte) (dep : Bool) : (s.setConfig baud addr dep).tDeUs = s.tDeUs := rfl
@[simp] theorem setConfig_tReqMs (baud : BitVec 32) (addr : Byte) (dep : Bool) : (s.setConfig baud addr dep).tReqMs = s.tReqMs := rfl
@[simp] theorem setConfig_starter (baud : BitVec 32) (addr : Byte) (dep : Bool) : (s.setConfig baud addr dep).starter = s.starter := rfl
@[simp] theorem setConfig_rspOk (baud : BitVec 32) (addr : Byte) (dep : Bool) : (s.setConfig baud addr dep).rspOk = s.rspOk := rfl
@[simp] theorem setConfig_rspStatus (baud : BitVec 32) (addr : Byte) (dep : Bool) : (s.setConfig baud addr dep).rspStatus = s.rspStatus := rfl
@[simp] theorem setConfig_rspValue (baud : BitVec 32) (addr : Byte) (dep : Bool) : (s.setConfig baud addr dep).rspValue = s.rspValue := rfl
@[simp] theorem setConfig_pl (baud : BitVec 32) (addr : Byte) (dep : Bool) : (s.setConfig baud addr dep).pl = s.pl := rfl
@[simp] theorem setConfig_dst (baud : BitVec 32) (addr : Byte) (dep : Bool) : (s.setConfig baud addr dep).dst = s.dst := rfl
@[simp] theorem setConfig_rxFifo (baud : BitVec 32) (addr : Byte) (dep : Bool) : (s.setConfig baud addr dep).rxFifo = s.rxFifo := rfl
@[simp] theorem setConfig_txBusy (baud : BitVec 32) (addr : Byte) (dep : Bool) : (s.setConfig baud addr dep).txBusy = s.txBusy := rfl
@[simp] theorem setConfig_txComplete (baud : BitVec 32) (addr : Byte) (dep : Bool) : (s.setConfig baud addr dep).txComplete = s.txComplete := rfl
@[simp] theorem setConfig_txLog (baud : BitVec 32) (addr : Byte) (dep : Bool) : (s.setConfig baud addr dep).txLog = s.txLog := rfl
@[simp] theorem setConfig_nowUs (baud : BitVec 32) (addr : Byte) (dep : Bool) : (s.setConfig baud addr dep).nowUs = s.nowUs := rfl
@[simp] theorem setConfig_inputs (baud : BitVec 32) (addr : Byte) (dep : Bool) : (s.setConfig baud addr dep).inputs = s.inputs := rfl
@[simp] theorem setConfig_draws (baud : BitVec 32) (addr : Byte) (dep : Bool) : (s.setConfig baud addr dep).draws = s.draws := rfl

/-! ### resetEngine -/

@[simp] theorem resetEngine_params : (s.resetEngine).params = s.params := rfl
@[simp] theorem resetEngine_configured : (s.resetEngine).configured = s.configured := rfl
@[simp] theorem resetEngine_baud : (s.resetEngine).baud = s.baud := rfl
@[simp] theorem resetEngine_myAddr : (s.resetEngine).myAddr = s.myAddr := rfl
@[simp] theorem resetEngine_dePresent : (s.resetEngine).dePresent = s.dePresent := rfl
@[simp] theorem resetEngine_t15 : (s.resetEngine).t15 = s.t15 := rfl
@[simp] theorem resetEngine_t35 : (s.resetEngine).t35 = s.t35 := rfl
@[simp] theorem resetEngine_buf : (s.resetEngine).buf = s.buf := rfl
@[simp] theorem resetEngine_len : (s.resetEngine).len = 0 := rfl
@[simp] theorem resetEngine_outFunc : (s.resetEngine).outFunc = s.outFunc := rfl
@[simp] theorem resetEngine_outStart : (s.resetEngine).outStart = s.outStart := rfl
@[simp] theorem resetEngine_outCount : (s.resetEngine).outCount = s.outCount := rfl
@[simp] theorem resetEngine_txc : (s.resetEngine).txc = .idle := rfl
@[simp] theorem resetEngine_rxActive : (s.resetEngine).rxActive = false := rfl
@[simp] theorem resetEngine_overflow : (s.resetEngine).overflow = false := rfl
@[simp] theorem resetEngine_awaitValid : (s.resetEngine).awaitValid = false := rfl
@[simp] theorem resetEngine_awaitAddr : (s.resetEngine).awaitAddr = s.awaitAddr := rfl
@[simp] theorem resetEngine_respAvail : (s.resetEngine).respAvail = false := rfl
@[simp] theorem resetEngine_de : (s.resetEngine).de = false := rfl
@[simp] theorem resetEngine_tLastUs : (s.resetEngine).tLastUs = 0 := rfl
@[simp] theorem resetEngine_tDeUs : (s.resetEngine).tDeUs = s.tDeUs := rfl
@[simp] theorem resetEngine_tReqMs : (s.resetEngine).tReqMs = s.tReqMs := rfl
@[simp] theorem resetEngine_starter : (s.resetEngine).starter = s.starter := rfl
@[simp] theorem resetEngine_rspOk : (s.resetEngine).rspOk = s.rspOk := rfl
@[simp] theorem resetEngine_rspStatus : (s.resetEngine).rspStatus = s.rspStatus := rfl
@[simp] theorem resetEngine_rspValue : (s.resetEngine).rspValue = s.rspValue := rfl
@[simp] theorem resetEngine_pl : (s.resetEngine).pl = s.pl := rfl
@[simp] theorem resetEngine_dst : (s.resetEngine).dst = s.dst := rfl
@[simp] theorem resetEngine_rxFifo : (s.resetEngine).rxFifo = s.rxFifo := rfl
@[simp] theorem resetEngine_txBusy : (s.resetEngine).txBusy = s.txBusy := rfl
@[simp] theorem resetEngine_txComplete : (s.resetEngine).txComplete = s.txComplete := rfl
@[simp] theorem resetEngine_txLog : (s.resetEngine).txLog = s.txLog := rfl
@[simp] theorem resetEngine_nowUs : (s.resetEngine).nowUs = s.nowUs := rfl
@[simp] theorem resetEngine_inputs : (s.resetEngine).inputs = s.inputs := rfl
@[simp] theorem resetEngine_draws : (s.resetEngine).draws = s.draws := rfl

/-! ### enableDriver -/

@[simp] theorem enableDriver_params : (s.enableDriver).params = s.params := rfl
@[simp] theorem enableDriver_configured : (s.enableDriver).configured = s.configured := rfl
@[simp] theorem enableDriver_baud : (s.enableDriver).baud = s.baud := rfl
@[simp] theorem enableDriver_myAddr : (s.enableDriver).myAddr = s.myAddr := rfl
@[simp] theorem enableDriver_dePresent : (s.enableDriver).dePresent = s.dePresent := rfl
@[simp] theorem enableDriver_t15 : (s.enableDriver).t15 = s.t15 := rfl
@[simp] theorem enableDriver_t35 : (s.enableDriver).t35 = s.t35 := rfl
@[simp] theorem enableDriver_buf : (s.enableDriver).buf = s.buf := rfl
@[simp] theorem enableDriver_len : (s.enableDriver).len = s.len := rfl
@[simp] theorem enableDriver_outFunc : (s.enableDriver).outFunc = s.outFunc := rfl
@[simp] theorem enableDriver_outStart : (s.enableDriver).outStart = s.outStart := rfl
@[simp] theorem enableDriver_outCount : (s.enableDriver).outCount = s.outCount := rfl
@[simp] theorem enableDriver_txc : (s.enableDriver).txc = .deSettle := rfl
@[simp] theorem enableDriver_rxActive : (s.enableDriver).rxActive = s.rxActive := rfl
@[simp] theorem enableDriver_overflow : (s.enableDriver).overflow = s.overflow := rfl
@[simp] theorem enableDriver_awaitValid : (s.enableDriver).awaitValid = s.awaitValid := rfl
@[simp] theorem enableDriver_awaitAddr : (s.enableDriver).awaitAddr = s.awaitAddr := rfl
@[simp] theorem enableDriver_respAvail : (s.enableDriver).respAvail = s.respAvail := rfl
@[simp] theorem enableDriver_de : (s.enableDriver).de = true := rfl
@[simp] theorem enableDriver_tLastUs : (s.enableDriver).tLastUs = s.tLastUs := rfl
@[simp] theorem enableDriver_tDeUs : (s.enableDriver).tDeUs = s.nowUs := rfl
@[simp] theorem enableDriver_tReqMs : (s.enableDriver).tReqMs = s.tReqMs := rfl
@[simp] theorem enableDriver_starter : (s.enableDriver).starter = s.starter := rfl
@[simp] theorem enableDriver_rspOk : (s.enableDriver).rspOk = s.rspOk := rfl
@[simp] theorem enableDriver_rspStatus : (s.enableDriver).rspStatus = s.rspStatus := rfl
@[simp] theorem enableDriver_rspValue : (s.enableDriver).rspValue = s.rspValue := rfl
@[simp] theorem enableDriver_pl : (s.enableDriver).pl = s.pl := rfl
@[simp] theorem enableDriver_dst : (s.enableDriver).dst = s.dst := rfl
@[simp] theorem enableDriver_rxFifo : (s.enableDriver).rxFifo = s.rxFifo := rfl
@[simp] theorem enableDriver_txBusy : (s.enableDriver).txBusy = s.txBusy := rfl
@[simp] theorem enableDriver_txComplete : (s.enableDriver).txComplete = s.txComplete := rfl
@[simp] theorem enableDriver_txLog : (s.enableDriver).txLog = s.txLog := rfl
@[simp] theorem enableDriver_nowUs : (s.enableDriver).nowUs = s.nowUs := rfl
@[simp] theorem enableDriver_inputs : (s.enableDriver).inputs = s.inputs := rfl
@[simp] theorem enableDriver_draws : (s.enableDriver).draws = s.draws := rfl

/-! ### rxByte -/

@[simp] theorem rxByte_params (b : Byte) : (s.rxByte b).params = s.params := rfl
@[simp] theorem rxByte_configured (b : Byte) : (s.rxByte b).configured = s.configured := rfl
@[simp] theorem rxByte_baud (b : Byte) : (s.rxByte b).baud = s.baud := rfl
@[simp] theorem rxByte_myAddr (b : Byte) : (s.rxByte b).myAddr = s.myAddr := rfl
@[simp] theorem rxByte_dePresent (b : Byte) : (s.rxByte b).dePresent = s.dePresent := rfl
@[simp] theorem rxByte_t15 (b : Byte) : (s.rxByte b).t15 = s.t15 := rfl
@[simp] theorem rxByte_t35 (b : Byte) : (s.rxByte b).t35 = s.t35 := rfl
@[simp] theorem rxByte_buf (b : Byte) : (s.rxByte b).buf = s.buf := rfl
@[simp] theorem rxByte_len (b : Byte) : (s.rxByte b).len = s.len := rfl
@[simp] theorem rxByte_outFunc (b : Byte) : (s.rxByte b).outFunc = s.outFunc := rfl
@[simp] theorem rxByte_outStart (b : Byte) : (s.rxByte b).outStart = s.outStart := rfl
@[simp] theorem rxByte_outCount (b : Byte) : (s.rxByte b).outCount = s.outCount := rfl
@[simp] theorem rxByte_txc (b : Byte) : (s.rxByte b).txc = s.txc := rfl
@[simp] theorem rxByte_rxActive (b : Byte) : (s.rxByte b).rxActive = s.rxActive := rfl
@[simp] theorem rxByte_overflow (b : Byte) : (s.rxByte b).overflow = s.overflow := rfl
@[simp] theorem rxByte_awaitValid (b : Byte) : (s.rxByte b).awaitValid = s.awaitValid := rfl
@[simp] theorem rxByte_awaitAddr (b : Byte) : (s.rxByte b).awaitAddr = s.awaitAddr := rfl
@[simp] theorem rxByte_respAvail (b : Byte) : (s.rxByte b).respAvail = s.respAvail := rfl
@[simp] theorem rxByte_de (b : Byte) : (s.rxByte b).de = s.de := rfl
@[simp] theorem rxByte_tLastUs (b : Byte) : (s.rxByte b).tLastUs = s.tLastUs := rfl
@[simp] theorem rxByte_tDeUs (b : Byte) : (s.rxByte b).tDeUs = s.tDeUs := rfl
@[simp] theorem rxByte_tReqMs (b : Byte) : (s.rxByte b).tReqMs = s.tReqMs := rfl
@[simp] theorem rxByte_starter (b : Byte) : (s.rxByte b).starter = s.starter := rfl
@[simp] theorem rxByte_rspOk (b : Byte) : (s.rxByte b).rspOk = s.rspOk := rfl
@[simp] theorem rxByte_rspStatus (b : Byte) : (s.rxByte b).rspStatus = s.rspStatus := rfl
@[simp] theorem rxByte_rspValue (b : Byte) : (s.rxByte b).rspValue = s.rspValue := rfl
@[simp] theorem rxByte_pl (b : Byte) : (s.rxByte b).pl = s.pl := rfl
@[simp] theorem rxByte_dst (b : Byte) : (s.rxByte b).dst = s.dst := rfl
@[simp] theorem rxByte_rxFifo (b : Byte) : (s.rxByte b).rxFifo = s.rxFifo ++ [b] := rfl
@[simp] theorem rxByte_txBusy (b : Byte) : (s.rxByte b).txBusy = s.txBusy := rfl
@[simp] theorem rxByte_txComplete (b : Byte) : (s.rxByte b).txComplete = s.txComplete := rfl
@[simp] theorem rxByte_txLog (b : Byte) : (s.rxByte b).txLog = s.txLog := rfl
@[simp] theorem rxByte_nowUs (b : Byte) : (s.rxByte b).nowUs = s.nowUs := rfl
@[simp] theorem rxByte_inputs (b : Byte) : (s.rxByte b).inputs = s.inputs := rfl
@[simp] theorem rxByte_draws (b : Byte) : (s.rxByte b).draws = s.draws := rfl

/-! ### advance -/

@[simp] theorem advance_params (d : Nat) : (s.advance d).params = s.params := rfl
@[simp] theorem advance_configured (d : Nat) : (s.advance d).configured = s.configured := rfl
@[simp] theorem advance_baud (d : Nat) : (s.advance d).baud = s.baud := rfl
@[simp] theorem advance_myAddr (d : Nat) : (s.advance d).myAddr = s.myAddr := rfl
@[simp] theorem advance_dePresent (d : Nat) : (s.advance d).dePresent = s.dePresent := rfl
@[simp] theorem advance_t15 (d : Nat) : (s.advance d).t15 = s.t15 := rfl
@[simp] theorem advance_t35 (d : Nat) : (s.advance d).t35 = s.t35 := rfl
@[simp] theorem advance_buf (d : Nat) : (s.advance d).buf = s.buf := rfl
@[simp] theorem advance_len (d : Nat) : (s.advance d).len = s.len := rfl
@[simp] theorem advance_outFunc (d : Nat) : (s.advance d).outFunc = s.outFunc := rfl
@[simp] theorem advance_outStart (d : Nat) : (s.advance d).outStart = s.outStart := rfl
@[simp] theorem advance_outCount (d : Nat) : (s.advance d).outCount = s.outCount := rfl
@[simp] theorem advance_txc (d : Nat) : (s.advance d).txc = s.txc := rfl
@[simp] theorem advance_rxActive (d : Nat) : (s.advance d).rxActive = s.rxActive := rfl
@[simp] theorem advance_overflow (d : Nat) : (s.advance d).overflow = s.overflow := rfl
@[simp] theorem advance_awaitValid (d : Nat) : (s.advance d).awaitValid = s.awaitValid := rfl
@[simp] theorem advance_awaitAddr (d : Nat) : (s.advance d).awaitAddr = s.awaitAddr := rfl
@[simp] theorem advance_respAvail (d : Nat) : (s.advance d).respAvail = s.respAvail := rfl
@[simp] theorem advance_de (d : Nat) : (s.advance d).de = s.de := rfl
@[simp] theorem advance_tLastUs (d : Nat) : (s.advance d).tLastUs = s.tLastUs := rfl
@[simp] theorem advance_tDeUs (d : Nat) : (s.advance d).tDeUs = s.tDeUs := rfl
@[simp] theorem advance_tReqMs (d : Nat) : (s.advance d).tReqMs = s.tReqMs := rfl
@[simp] theorem advance_starter (d : Nat) : (s.advance d).starter = s.starter := rfl
@[simp] theorem advance_rspOk (d : Nat) : (s.advance d).rspOk = s.rspOk := rfl
@[simp] theorem advance_rspStatus (d : Nat) : (s.advance d).rspStatus = s.rspStatus := rfl
@[simp] theorem advance_rspValue (d : Nat) : (s.advance d).rspValue = s.rspValue := rfl
@[simp] theorem advance_pl (d : Nat) : (s.advance d).pl = s.pl := rfl
@[simp] theorem advance_dst (d : Nat) : (s.advance d).dst = s.dst := rfl
@[simp] theorem advance_rxFifo (d : Nat) : (s.advance d).rxFifo = s.rxFifo := rfl
@[simp] theorem advance_txBusy (d : Nat) : (s.advance d).txBusy = s.txBusy := rfl
@[simp] theorem advance_txComplete (d : Nat) : (s.advance d).txComplete = s.txComplete := rfl
@[simp] theorem advance_txLog (d : Nat) : (s.advance d).txLog = s.txLog := rfl
@[simp] theorem advance_nowUs (d : Nat) : (s.advance d).nowUs = s.nowUs + d := rfl
@[simp] theorem advance_inputs (d : Nat) : (s.advance d).inputs = s.inputs := rfl
@[simp] theorem advance_draws (d : Nat) : (s.advance d).draws = s.draws := rfl

/-! ### buildFrame -/

@[simp] theorem buildFrame_params (body : List Byte) : (s.buildFrame body).params = s.params := rfl
@[simp] theorem buildFrame_configured (body : List Byte) : (s.buildFrame body).configured = s.configured := rfl
@[simp] theorem buildFrame_baud (body : List Byte) : (s.buildFrame body).baud = s.baud := rfl
@[simp] theorem buildFrame_myAddr (body : List Byte) : (s.buildFrame body).myAddr = s.myAddr := rfl
@[simp] theorem buildFrame_dePresent (body : List Byte) : (s.buildFrame body).dePresent = s.dePresent := rfl
@[simp] theorem buildFrame_t15 (body : List Byte) : (s.buildFrame body).t15 = s.t15 := rfl
@[simp] theorem buildFrame_t35 (body : List Byte) : (s.buildFrame body).t35 = s.t35 := rfl
@[simp] theorem buildFrame_len (body : List Byte) : (s.buildFrame body).len = body.length + 2 := rfl
@[simp] theorem buildFrame_outFunc (body : List Byte) : (s.buildFrame body).outFunc = s.outFunc := rfl
@[simp] theorem buildFrame_outStart (body : List Byte) : (s.buildFrame body).outStart = s.outStart := rfl
@[simp] theorem buildFrame_outCount (body : List Byte) : (s.buildFrame body).outCount = s.outCount := rfl
@[simp] theorem buildFrame_txc (body : List Byte) : (s.buildFrame body).txc = s.txc := rfl
@[simp] theorem buildFrame_rxActive (body : List Byte) : (s.buildFrame body).rxActive = s.rxActive := rfl
@[simp] theorem buildFrame_overflow (body : List Byte) : (s.buildFrame body).overflow = s.overflow := rfl
@[simp] theorem buildFrame_awaitValid (body : List Byte) : (s.buildFrame body).awaitValid = s.awaitValid := rfl
@[simp] theorem buildFrame_awaitAddr (body : List Byte) : (s.buildFrame body).awaitAddr = s.awaitAddr := rfl
@[simp] theorem buildFrame_respAvail (body : List Byte) : (s.buildFrame body).respAvail = s.respAvail := rfl
@[simp] theorem buildFrame_de (body : List Byte) : (s.buildFrame body).de = s.de := rfl
@[simp] theorem buildFrame_tLastUs (body : List Byte) : (s.buildFrame body).tLastUs = s.tLastUs := rfl
@[simp] theorem buildFrame_tDeUs (body : List Byte) : (s.buildFrame body).tDeUs = s.tDeUs := rfl
@[simp] theorem buildFrame_tReqMs (body : List Byte) : (s.buildFrame body).tReqMs = s.tReqMs := rfl
@[simp] theorem buildFrame_starter (body : List Byte) : (s.buildFrame body).starter = s.starter := rfl
@[simp] theorem buildFrame_rspOk (body : List Byte) : (s.buildFrame body).rspOk = s.rspOk := rfl
@[simp] theorem buildFrame_rspStatus (body : List Byte) : (s.buildFrame body).rspStatus = s.rspStatus := rfl
@[simp] theorem buildFrame_rspValue (body : List Byte) : (s.buildFrame body).rspValue = s.rspValue := rfl
@[simp] theorem buildFrame_pl (body : List Byte) : (s.buildFrame body).pl = s.pl := rfl
@[simp] theorem buildFrame_dst (body : List Byte) : (s.buildFrame body).dst = s.dst := rfl
@[simp] theorem buildFrame_rxFifo (body : List Byte) : (s.buildFrame body).rxFifo = s.rxFifo := rfl
@[simp] theorem buildFrame_txBusy (body : List Byte) : (s.buildFrame body).txBusy = s.txBusy := rfl
@[simp] theorem buildFrame_txComplete (body : List Byte) : (s.buildFrame body).txComplete = s.txComplete := rfl
@[simp] theorem buildFrame_txLog (body : List Byte) : (s.buildFrame body).txLog = s.txLog := rfl
@[simp] theorem buildFrame_nowUs (body : List Byte) : (s.buildFrame body).nowUs = s.nowUs := rfl
@[simp] theorem buildFrame_inputs (body : List Byte) : (s.buildFrame body).inputs = s.inputs := rfl
@[simp] theorem buildFrame_draws (body : List Byte) : (s.buildFrame body).draws = s.draws := rfl

/-! ### idleTick -/

@[simp] theorem idleTick_params : (s.idleTick).params = s.params := rfl
@[simp] theorem idleTick_configured : (s.idleTick).configured = s.configured := rfl
@[simp] theorem idleTick_baud : (s.idleTick).baud = s.baud := rfl
@[simp] theorem idleTick_myAddr : (s.idleTick).myAddr = s.myAddr := rfl
@[simp] theorem idleTick_dePresent : (s.idleTick).dePresent = s.dePresent := rfl
@[simp] theorem idleTick_t15 : (s.idleTick).t15 = s.t15 := rfl
@[simp] theorem idleTick_t35 : (s.idleTick).t35 = s.t35 := rfl
@[simp] theorem idleTick_buf : (s.idleTick).buf = s.buf := rfl
@[simp] theorem idleTick_len : (s.idleTick).len = s.len := rfl
@[simp] theorem idleTick_outFunc : (s.idleTick).outFunc = s.outFunc := rfl
@[simp] theorem idleTick_outStart : (s.idleTick).outStart = s.outStart := rfl
@[simp] theorem idleTick_outCount : (s.idleTick).outCount = s.outCount := rfl
@[simp] theorem idleTick_txc : (s.idleTick).txc = s.txc := rfl
@[simp] theorem idleTick_rxActive : (s.idleTick).rxActive = s.rxActive := rfl
@[simp] theorem idleTick_overflow : (s.idleTick).overflow = s.overflow := rfl
@[simp] theorem idleTick_awaitValid : (s.idleTick).awaitValid = s.awaitValid := rfl
@[simp] theorem idleTick_awaitAddr : (s.idleTick).awaitAddr = s.awaitAddr := rfl
@[simp] theorem idleTick_respAvail : (s.idleTick).respAvail = s.respAvail := rfl
@[simp] theorem idleTick_de : (s.idleTick).de = s.de := rfl
@[simp] theorem idleTick_tLastUs : (s.idleTick).tLastUs = s.tLastUs := rfl
@[simp] theorem idleTick_tDeUs : (s.idleTick).tDeUs = s.tDeUs := rfl
@[simp] theorem idleTick_tReqMs : (s.idleTick).tReqMs = s.tReqMs := rfl
@[simp] theorem idleTick_starter : (s.idleTick).starter = s.starter := rfl
@[simp] theorem idleTick_rspOk : (s.idleTick).rspOk = s.rspOk := rfl
@[simp] theorem idleTick_rspStatus : (s.idleTick).rspStatus = s.rspStatus := rfl
@[simp] theorem idleTick_rspValue : (s.idleTick).rspValue = s.rspValue := rfl
@[simp] theorem idleTick_pl : (s.idleTick).pl = s.pl := rfl
@[simp] theorem idleTick_dst : (s.idleTick).dst = s.dst := rfl
@[simp] theorem idleTick_rxFifo : (s.idleTick).rxFifo = s.rxFifo := rfl
@[simp] theorem idleTick_txBusy : (s.idleTick).txBusy = s.txBusy := rfl
@[simp] theorem idleTick_txComplete : (s.idleTick).txComplete = s.txComplete := rfl
@[simp] theorem idleTick_txLog : (s.idleTick).txLog = s.txLog := rfl
@[simp] theorem idleTick_nowUs : (s.idleTick).nowUs = s.nowUs + (Config.openTick s.draws + 1) := rfl
@[simp] theorem idleTick_inputs : (s.idleTick).inputs = s.inputs := rfl
@[simp] theorem idleTick_draws : (s.idleTick).draws = s.draws + 1 := rfl

/-! ### accepted -/

@[simp] theorem accepted_params (m : Memory) (rest : List Input) : (s.accepted m rest).params = s.params := rfl
@[simp] theorem accepted_configured (m : Memory) (rest : List Input) : (s.accepted m rest).configured = s.configured := rfl
@[simp] theorem accepted_baud (m : Memory) (rest : List Input) : (s.accepted m rest).baud = s.baud := rfl
@[simp] theorem accepted_myAddr (m : Memory) (rest : List Input) : (s.accepted m rest).myAddr = s.myAddr := rfl
@[simp] theorem accepted_dePresent (m : Memory) (rest : List Input) : (s.accepted m rest).dePresent = s.dePresent := rfl
@[simp] theorem accepted_t15 (m : Memory) (rest : List Input) : (s.accepted m rest).t15 = s.t15 := rfl
@[simp] theorem accepted_t35 (m : Memory) (rest : List Input) : (s.accepted m rest).t35 = s.t35 := rfl
@[simp] theorem accepted_buf (m : Memory) (rest : List Input) : (s.accepted m rest).buf = s.buf := rfl
@[simp] theorem accepted_len (m : Memory) (rest : List Input) : (s.accepted m rest).len = s.len := rfl
@[simp] theorem accepted_outFunc (m : Memory) (rest : List Input) : (s.accepted m rest).outFunc = s.outFunc := rfl
@[simp] theorem accepted_outStart (m : Memory) (rest : List Input) : (s.accepted m rest).outStart = s.outStart := rfl
@[simp] theorem accepted_outCount (m : Memory) (rest : List Input) : (s.accepted m rest).outCount = s.outCount := rfl
@[simp] theorem accepted_txc (m : Memory) (rest : List Input) : (s.accepted m rest).txc = s.txc := rfl
@[simp] theorem accepted_rxActive (m : Memory) (rest : List Input) : (s.accepted m rest).rxActive = s.rxActive := rfl
@[simp] theorem accepted_overflow (m : Memory) (rest : List Input) : (s.accepted m rest).overflow = s.overflow := rfl
@[simp] theorem accepted_awaitValid (m : Memory) (rest : List Input) : (s.accepted m rest).awaitValid = s.awaitValid := rfl
@[simp] theorem accepted_awaitAddr (m : Memory) (rest : List Input) : (s.accepted m rest).awaitAddr = s.awaitAddr := rfl
@[simp] theorem accepted_respAvail (m : Memory) (rest : List Input) : (s.accepted m rest).respAvail = s.respAvail := rfl
@[simp] theorem accepted_de (m : Memory) (rest : List Input) : (s.accepted m rest).de = s.de := rfl
@[simp] theorem accepted_tLastUs (m : Memory) (rest : List Input) : (s.accepted m rest).tLastUs = s.tLastUs := rfl
@[simp] theorem accepted_tDeUs (m : Memory) (rest : List Input) : (s.accepted m rest).tDeUs = s.tDeUs := rfl
@[simp] theorem accepted_tReqMs (m : Memory) (rest : List Input) : (s.accepted m rest).tReqMs = s.tReqMs := rfl
@[simp] theorem accepted_starter (m : Memory) (rest : List Input) : (s.accepted m rest).starter = s.starter := rfl
@[simp] theorem accepted_rspOk (m : Memory) (rest : List Input) : (s.accepted m rest).rspOk = s.rspOk := rfl
@[simp] theorem accepted_rspStatus (m : Memory) (rest : List Input) : (s.accepted m rest).rspStatus = s.rspStatus := rfl
@[simp] theorem accepted_rspValue (m : Memory) (rest : List Input) : (s.accepted m rest).rspValue = s.rspValue := rfl
@[simp] theorem accepted_pl (m : Memory) (rest : List Input) : (s.accepted m rest).pl = m := rfl
@[simp] theorem accepted_dst (m : Memory) (rest : List Input) : (s.accepted m rest).dst = s.dst := rfl
@[simp] theorem accepted_rxFifo (m : Memory) (rest : List Input) : (s.accepted m rest).rxFifo = s.rxFifo := rfl
@[simp] theorem accepted_txBusy (m : Memory) (rest : List Input) : (s.accepted m rest).txBusy = s.txBusy := rfl
@[simp] theorem accepted_txComplete (m : Memory) (rest : List Input) : (s.accepted m rest).txComplete = s.txComplete := rfl
@[simp] theorem accepted_txLog (m : Memory) (rest : List Input) : (s.accepted m rest).txLog = s.txLog := rfl
@[simp] theorem accepted_nowUs (m : Memory) (rest : List Input) : (s.accepted m rest).nowUs = s.nowUs := rfl
@[simp] theorem accepted_inputs (m : Memory) (rest : List Input) : (s.accepted m rest).inputs = rest := rfl
@[simp] theorem accepted_draws (m : Memory) (rest : List Input) : (s.accepted m rest).draws = s.draws := rfl

end Sys2Proof.Machine.State
end

