-- ==== Sys2Proof/Laws/Ops.lean ====
section
/-!
SUPPORT. What each shared operation does, said once: the frame buffer, `crc16`, building a frame, draining the FIFO, the
guard and the start of a send.
-/

namespace Sys2Proof.Machine

variable (s t : State)

/-! ### The frame buffer -/

/-- A byte of `buf` depends on the memory `buf` alone. -/
theorem State.bufByte_congr (h : t.buf = s.buf) (i : Nat) : t.bufByte i = s.bufByte i := by
  unfold State.bufByte; rw [h]

/-- Reading one byte after bytes were written from index `a`. -/
theorem State.bufByte_putBytes (a : Nat) (bs : List Byte) (i : Nat) :
    (s.putBytes a bs).bufByte i = if a ≤ i ∧ i < a + bs.length then bs.getD (i - a) 0#8 else s.bufByte i := by
  unfold State.bufByte
  rw [State.putBytes_buf, Memory.read?_writeBytes]
  split_ifs with h
  · have hlt : i - a < bs.length := by omega
    simp [List.getD_eq_getElem?_getD, List.getElem?_eq_getElem hlt]
  · rfl

theorem State.length_bufBytes (a n : Nat) : (s.bufBytes a n).length = n := by simp [State.bufBytes]

theorem State.getElem_bufBytes (a n i : Nat) (h : i < (s.bufBytes a n).length) :
    (s.bufBytes a n)[i] = s.bufByte (a + i) := by simp [State.bufBytes]

/-- The first `n` bytes of `buf` are a given list when each of them is. -/
theorem State.bufBytes_eq {n : Nat} {bs : List Byte} (hn : bs.length = n)
    (h : ∀ i, i < n → s.bufByte i = bs.getD i 0#8) : s.bufBytes 0 n = bs := by
  apply List.ext_getElem
  · rw [State.length_bufBytes, hn]
  · intro i h1 h2
    rw [State.getElem_bufBytes, Nat.zero_add, h i (by omega), List.getD_eq_getElem?_getD,
      List.getElem?_eq_getElem h2, Option.getD_some]

/-- Two states that agree on the bytes `buf[a..a+n)` read the same bytes there. -/
theorem State.bufBytes_congr {a n : Nat} (h : ∀ i, a ≤ i → i < a + n → t.bufByte i = s.bufByte i) :
    t.bufBytes a n = s.bufBytes a n := by
  apply List.ext_getElem
  · rw [State.length_bufBytes, State.length_bufBytes]
  · intro i h1 h2
    rw [State.length_bufBytes] at h1
    rw [State.getElem_bufBytes, State.getElem_bufBytes, h _ (by omega) (by omega)]

theorem State.bufBytes_eq_frameLike (n : Nat) : s.bufBytes 0 n = (List.range n).map s.bufByte := by
  rw [State.bufBytes, List.range_eq_range']

/-- The bytes after one longer prefix. -/
theorem State.bufBytes_succ (n : Nat) : s.bufBytes 0 (n + 1) = s.bufBytes 0 n ++ [s.bufByte n] := by
  rw [State.bufBytes_eq_frameLike, State.bufBytes_eq_frameLike, List.range_succ, List.map_append]; rfl

/-! ### Bytes of a word -/

@[simp] theorem cat_hi8_lo8 (w : Word16) : hi8 w ++ lo8 w = w := by
  apply BitVec.eq_of_getLsbD_eq
  intro i hi
  rw [BitVec.getLsbD_append]
  simp only [hi8, lo8, BitVec.getLsbD_extractLsb']
  by_cases h : i < 8
  · simp [h]
  · rw [if_neg h, decide_eq_true (by omega), Bool.true_and]
    congr 1; omega

theorem cat_eq (a b : Byte) : cat a b = a ++ b := rfl

/-! ### The CRC -/

theorem crcShift_zero : crcShift 0#16 = 0#16 := by decide

/-- A shift step is linear over XOR. -/
theorem crcShift_xor (x y : Word16) : crcShift (x ^^^ y) = crcShift x ^^^ crcShift y := by
  unfold crcShift
  rw [BitVec.ushiftRight_xor_distrib, BitVec.getLsbD_xor]
  cases x.getLsbD 0 <;> cases y.getLsbD 0
  · simp
  · simp [BitVec.xor_assoc]
  · simp only [Bool.xor_false, if_true, Bool.false_eq_true, if_false]
    rw [BitVec.xor_assoc, BitVec.xor_comm (y >>> 1), ← BitVec.xor_assoc]
  · simp only [bne_self_eq_false, Bool.false_eq_true, if_false, if_true]
    rw [BitVec.xor_assoc, BitVec.xor_comm (y >>> 1), ← BitVec.xor_assoc Config.crcPoly, BitVec.xor_self, BitVec.zero_xor]

theorem crcRaw_append (m l : List Byte) : crcRaw (m ++ l) = l.foldl crcByte (crcRaw m) := by
  simp [crcRaw]

/-! ### Guard -/

/-- The guard lets the operation through exactly when every index below `n` exists. -/
theorem State.guardBuf_of_le {n : Nat} (h : n ≤ s.params.capacity) (k : Result) : s.guardBuf n k = k := if_pos h

theorem State.guardBuf_next {n : Nat} {k : Result} (h : s.guardBuf n k = .next t) :
    n ≤ s.params.capacity ∧ k = .next t := by
  unfold State.guardBuf at h
  split_ifs at h with hn
  exact ⟨hn, h⟩

/-! ### Building a frame -/

/-- A built frame changes `buf` and `len` only. -/
theorem State.buildFrame_eq (body : List Byte) :
    s.buildFrame body = { s with buf := (s.buildFrame body).buf, len := body.length + 2 } := rfl

/-- `crc16` over the bytes just written is their CRC output. -/
theorem State.crc16_putBytes (body : List Byte) : (s.putBytes 0 body).crc16 body.length = crcOutput body := by
  rw [State.crc16, State.bufBytes_eq _ rfl]
  intro i hi
  rw [State.bufByte_putBytes, if_pos (by omega), Nat.sub_zero]

/-- Every byte of `buf` after a frame was built. -/
theorem State.bufByte_buildFrame (body : List Byte) (i : Nat) :
    (s.buildFrame body).bufByte i =
      if i < body.length then body.getD i 0#8
      else if i = body.length then hi8 (crcOutput body)
      else if i = body.length + 1 then lo8 (crcOutput body)
      else s.bufByte i := by
  have h : (s.buildFrame body).bufByte i =
      ((s.putBytes 0 body).putBytes body.length [hi8 (crcOutput body), lo8 (crcOutput body)]).bufByte i := by
    rw [← State.crc16_putBytes s body]; rfl
  rw [h, State.bufByte_putBytes, State.bufByte_putBytes]
  simp only [List.length_cons, List.length_nil, Nat.zero_add, Nat.zero_le, true_and, Nat.sub_zero]
  by_cases h1 : i < body.length
  · rw [if_neg (by omega), if_pos h1, if_pos h1]
  · rw [if_neg h1, if_neg h1]
    by_cases h2 : i = body.length
    · subst h2; simp
    · by_cases h3 : i = body.length + 1
      · subst h3; simp
      · rw [if_neg (by omega), if_neg h2, if_neg h3]

/-- Building a frame leaves every byte past the frame as it was. -/
theorem State.bufByte_buildFrame_of_ge (body : List Byte) (i : Nat) (h : body.length + 2 ≤ i) :
    (s.buildFrame body).bufByte i = s.bufByte i := by
  rw [State.bufByte_buildFrame, if_neg (by omega), if_neg (by omega), if_neg (by omega)]

/-- The memory of a built frame: two runs of bytes written into the old one. -/
theorem State.buildFrame_buf (body : List Byte) :
    (s.buildFrame body).buf =
      (s.buf.writeBytes 0 body).writeBytes body.length [hi8 (crcOutput body), lo8 (crcOutput body)] := by
  rw [← State.crc16_putBytes s body]; rfl

/-- What starting a send can answer: the built frame, waiting for silence, with the command in progress. -/
theorem State.sendFrame_next {who : Starter} {body : List Byte} (h : s.sendFrame who body = .next t) :
    body.length + 2 ≤ s.params.capacity ∧ t = (s.buildFrame body).startSend who := by
  obtain ⟨hn, hk⟩ := State.guardBuf_next s t h
  exact ⟨hn, (by injection hk with hk; exact hk.symm)⟩

/-- A send whose frame fits answers the built frame: every field, and every byte of `buf`. -/
theorem State.sendFrame_ok (who : Starter) (body : List Byte) (h : body.length + 2 ≤ s.params.capacity) :
    ∃ t, s.sendFrame who body = .next t ∧
      t = { s with buf := t.buf, len := body.length + 2, txc := .waitSilence, starter := some who } ∧
      ∀ i, t.bufByte i =
        if i < body.length then body.getD i 0#8
        else if i = body.length then hi8 (crcOutput body)
        else if i = body.length + 1 then lo8 (crcOutput body)
        else s.bufByte i := by
  refine ⟨(s.buildFrame body).startSend who, State.guardBuf_of_le _ h _, ?_, State.bufByte_buildFrame s body⟩
  rw [State.buildFrame_eq]; rfl

/-! ### Receiving -/

/-- Appending a byte changes `buf`, `len` and `overflow` only. -/
theorem State.appendByte_eq (b : Byte) :
    s.appendByte b = { s with
      buf := (s.appendByte b).buf, len := (s.appendByte b).len, overflow := (s.appendByte b).overflow } := by
  unfold State.appendByte; split_ifs <;> rfl

theorem State.appendByte_of_room (b : Byte) (h : s.len < s.params.capacity) :
    s.appendByte b = { s with buf := s.buf.write s.len b, len := s.len + 1 } := if_pos h

theorem State.appendByte_of_full (b : Byte) (h : ¬ s.len < s.params.capacity) :
    s.appendByte b = { s with overflow := true } := if_neg h

/-- Draining changes `buf`, `len`, `overflow` and the FIFO only. -/
theorem State.drain_frame (bs : List Byte) :
    s.drain bs = { s with
      buf := (s.drain bs).buf, len := (s.drain bs).len, overflow := (s.drain bs).overflow, rxFifo := [] } := by
  induction bs generalizing s with
  | nil => rfl
  | cons b bs ih =>
    rw [State.drain, ih, State.appendByte_eq]

/-- Draining changes `buf`, `len`, `overflow` and the FIFO only; `len` grows by the bytes that found room, and the overflow
flag is set when some did not. -/
theorem State.drain_eq (bs : List Byte) (h : s.len ≤ s.params.capacity) :
    s.drain bs = { s with
      buf := (s.drain bs).buf, rxFifo := []
      len := s.len + (bs.take (s.params.capacity - s.len)).length
      overflow := s.overflow || decide (s.params.capacity - s.len < bs.length) } := by
  induction bs generalizing s with
  | nil => simp [State.drain]
  | cons b bs ih =>
    rw [State.drain]
    by_cases hr : s.len < s.params.capacity
    · have e : ({ s with rxFifo := bs } : State).appendByte b =
          { s with rxFifo := bs, buf := s.buf.write s.len b, len := s.len + 1 } := if_pos hr
      rw [e, ih _ (show s.len + 1 ≤ s.params.capacity by omega)]
      congr 1
      · simp only [List.length_take, List.length_cons]; omega
      · congr 1
        simp only [List.length_cons, decide_eq_decide]; omega
    · have e : ({ s with rxFifo := bs } : State).appendByte b = { s with rxFifo := bs, overflow := true } := if_neg hr
      rw [e, ih ({ s with rxFifo := bs, overflow := true } : State) h]
      have hc : s.params.capacity - s.len = 0 := by omega
      congr 1
      · simp [hc]
      · simp [hc]

/-- The bytes of `buf` after draining: those that found room stand from index `len` on, in order, and every other byte is as
before. -/
theorem State.bufByte_drain (bs : List Byte) (h : s.len ≤ s.params.capacity) (i : Nat) :
    (s.drain bs).bufByte i =
      if s.len ≤ i ∧ i < s.len + (bs.take (s.params.capacity - s.len)).length then bs.getD (i - s.len) 0#8
      else s.bufByte i := by
  induction bs generalizing s with
  | nil => simp [State.drain, State.bufByte]
  | cons b bs ih =>
    rw [State.drain]
    by_cases hr : s.len < s.params.capacity
    · have e : ({ s with rxFifo := bs } : State).appendByte b =
          { s with rxFifo := bs, buf := s.buf.write s.len b, len := s.len + 1 } := if_pos hr
      rw [e, ih _ (show s.len + 1 ≤ s.params.capacity by omega)]
      have hb : ({ s with rxFifo := bs, buf := s.buf.write s.len b, len := s.len + 1 } : State).bufByte i =
          if i = s.len then b else s.bufByte i := by
        unfold State.bufByte
        simp only [Memory.read?_write]
        split_ifs <;> rfl
      rw [hb]
      simp only [List.length_take, List.length_cons]
      by_cases h1 : i = s.len
      · subst h1
        rw [if_neg (by omega), if_pos rfl, if_pos (by omega)]
        simp
      · by_cases h2 : s.len + 1 ≤ i ∧ i < s.len + 1 + min (s.params.capacity - (s.len + 1)) bs.length
        · rw [if_pos h2, if_pos (by omega), show i - s.len = (i - (s.len + 1)) + 1 by omega, List.getD_cons_succ]
        · rw [if_neg h2, if_neg h1, if_neg (by omega)]
    · have e : ({ s with rxFifo := bs } : State).appendByte b = { s with rxFifo := bs, overflow := true } := if_neg hr
      rw [e, ih ({ s with rxFifo := bs, overflow := true } : State) h]
      have hc : s.params.capacity - s.len = 0 := by omega
      simp only [hc, List.take_zero, List.length_nil, Nat.add_zero]
      rw [if_neg (by omega), if_neg (by omega)]
      rfl

end Sys2Proof.Machine
end

