-- ==== Sys2Proof/Laws/PerInstr.lean ====
section
/-!
SUPPORT. The family MatchesRow: the encoding of every well-formed instruction matches the mask and match of its own row of
spec/opcode_table.json, and a frame class stands under the row's case. One lemma per constructor.
-/

namespace Sys2Proof.Laws.MatchesRow

/-- A row of the table: a command row, or a frame row with its case, mask and match. -/
inductive Row where
  | command (r : CmdRow)
  | frame (c : WireCase) (mask value : Word16)

/-- The row of an instruction, its numbers as the table has them. -/
def row : Instr → Row
  | .config _ _ _ => .command ⟨0xF00000000007FFFF#64, 0x1000000000000000#64⟩
  | .poll => .command ⟨0xFFFFFFFFFFFFFFFF#64, 0x2000000000000000#64⟩
  | .sendErr _ _ => .command ⟨0xF0000FFFFFFFFFFF#64, 0x3000000000000000#64⟩
  | .sendRsp _ _ _ => .command ⟨0xF00000000FFFFFFF#64, 0x4000000000000000#64⟩
  | .mread _ _ _ _ => .command ⟨0xF000000000000FFF#64, 0x5000000000000000#64⟩
  | .mfetch _ => .command ⟨0xF0000FFFFFFFFFFF#64, 0x6000000000000000#64⟩
  | .crc _ => .command ⟨0xF0000FFFFFFFFFFF#64, 0x7000000000000000#64⟩
  | .reservedOp _ => .command ⟨0x0000000000000000#64, 0x0000000000000000#64⟩
  | .wireReqReadHolding _ => .frame .own 0x00FF#16 0x0003#16
  | .wireReqReadInput _ => .frame .own 0x00FF#16 0x0004#16
  | .wireReqOther _ _ => .frame .own 0x0000#16 0x0000#16
  | .wireRspReadHolding _ => .frame .awaited 0x00FF#16 0x0003#16
  | .wireRspReadInput _ => .frame .awaited 0x00FF#16 0x0004#16
  | .wireExc _ _ => .frame .awaited 0x0080#16 0x0080#16
  | .wireRspOther _ _ => .frame .awaited 0x0000#16 0x0000#16
  | .wireForeign _ _ => .frame .foreign 0x0000#16 0x0000#16

/-- An encoding matches a row. -/
def Row.admits : Row → Encoding → Prop
  | .command r, .command w => r.fits w = true
  | .frame c mask value, .frame c' key => c' = c ∧ key &&& mask = value
  | .command _, .frame _ _ => False
  | .frame _ _ _, .command _ => False

/-- A well-formed instruction's encoding matches its row. -/
def Statement (i : Instr) : Prop := i.wellFormed = true → (row i).admits (encode i)

theorem config (baud : BitVec 32) (addr : Byte) (dp : Bool) : Statement (.config baud addr dp) := by
  intro _
  show ((0x1#4 ++ baud ++ addr ++ BitVec.ofBool dp ++ 0#19) &&&
    ((0xF#4 ++ 0#32) ++ 0#8 ++ 0#1 ++ BitVec.allOnes 19) == _) = true
  rw [BitVec.and_append, BitVec.and_append, BitVec.and_append, BitVec.and_append]
  simp

theorem poll : Statement .poll := fun _ => rfl

theorem sendErr (fc kind : Byte) : Statement (.sendErr fc kind) := by
  intro _
  show ((0x3#4 ++ fc ++ kind ++ 0#44) &&& ((0xF#4 ++ 0#8) ++ 0#8 ++ BitVec.allOnes 44) == _) = true
  rw [BitVec.and_append, BitVec.and_append, BitVec.and_append]
  simp

theorem sendRsp (fc length : Byte) (offset : Word16) : Statement (.sendRsp fc length offset) := by
  intro _
  show ((0x4#4 ++ fc ++ length ++ offset ++ 0#28) &&&
    ((0xF#4 ++ 0#8) ++ 0#8 ++ 0#16 ++ BitVec.allOnes 28) == _) = true
  rw [BitVec.and_append, BitVec.and_append, BitVec.and_append, BitVec.and_append]
  simp

theorem mread (node fc : Byte) (start count : Word16) : Statement (.mread node fc start count) := by
  intro _
  show ((0x5#4 ++ node ++ fc ++ start ++ count ++ 0#12) &&&
    ((0xF#4 ++ 0#8) ++ 0#8 ++ 0#16 ++ 0#16 ++ BitVec.allOnes 12) == _) = true
  rw [BitVec.and_append, BitVec.and_append, BitVec.and_append, BitVec.and_append, BitVec.and_append]
  simp

theorem mfetch (n : Word16) : Statement (.mfetch n) := by
  intro _
  show ((0x6#4 ++ n ++ 0#44) &&& ((0xF#4 ++ 0#16) ++ BitVec.allOnes 44) == _) = true
  rw [BitVec.and_append, BitVec.and_append]
  simp

theorem crc (n : Word16) : Statement (.crc n) := by
  intro _
  show ((0x7#4 ++ n ++ 0#44) &&& ((0xF#4 ++ 0#16) ++ BitVec.allOnes 44) == _) = true
  rw [BitVec.and_append, BitVec.and_append]
  simp

theorem reservedOp (w : CmdWord) : Statement (.reservedOp w) := by
  intro _
  show (w &&& 0#64 == 0#64) = true
  simp

/-- A key under the mask of the function byte. -/
theorem key_function (a f : Byte) : wireKey a f &&& 0x00FF#16 = 0#8 ++ f := by
  show ((a ++ f : BitVec (8 + 8)) &&& (0#8 ++ BitVec.allOnes 8) : BitVec (8 + 8)) = _
  rw [BitVec.and_append]
  rw [BitVec.and_zero, BitVec.and_allOnes]

theorem wireReqReadHolding (a : Byte) : Statement (.wireReqReadHolding a) := fun _ => ⟨rfl, key_function a 3#8⟩

theorem wireReqReadInput (a : Byte) : Statement (.wireReqReadInput a) := fun _ => ⟨rfl, key_function a 4#8⟩

theorem wireReqOther (a f : Byte) : Statement (.wireReqOther a f) := fun _ => ⟨rfl, BitVec.and_zero⟩

theorem wireRspReadHolding (a : Byte) : Statement (.wireRspReadHolding a) := fun _ => ⟨rfl, key_function a 3#8⟩

theorem wireRspReadInput (a : Byte) : Statement (.wireRspReadInput a) := fun _ => ⟨rfl, key_function a 4#8⟩

theorem wireExc (a f : Byte) : Statement (.wireExc a f) := by
  intro h
  have hf : f.msb = true := h
  refine ⟨rfl, ?_⟩
  show ((a ++ f : BitVec (8 + 8)) &&& (0#8 ++ 0x80#8) : BitVec (8 + 8)) = _
  rw [BitVec.and_append, BitVec.and_zero]
  have key : ∀ g : Byte, g.msb = true → g &&& 0x80#8 = 0x80#8 := by decide
  rw [key f hf]
  rfl

theorem wireRspOther (a f : Byte) : Statement (.wireRspOther a f) := fun _ => ⟨rfl, BitVec.and_zero⟩

theorem wireForeign (a f : Byte) : Statement (.wireForeign a f) := fun _ => ⟨rfl, BitVec.and_zero⟩

end Sys2Proof.Laws.MatchesRow
end

