-- ==== Sys2Proof/Laws/Step.lean ====
section
/-!
SUPPORT. What each meaning, each micro-step and each step can do when it answers a next state, said once: the guards it
passed and the state it gives, in terms of the named operations. Later proofs cite these and unfold no meaning.
-/

namespace Sys2Proof.Machine

variable {s t : State}

/-! ### Flags -/

theorem State.sending_eq_false : s.sending = false ↔ s.txc = .idle := by simp [State.sending]

theorem State.sending_eq_true : s.sending = true ↔ s.txc ≠ .idle := by simp [State.sending]

theorem State.waiting_eq_false : s.waiting = false ↔ s.txc = .idle ∨ s.txc = .active := by
  unfold State.waiting; cases s.txc <;> simp

/-! ### CONFIG, CRC, reserved words -/

/-- CONFIG answers a next state only for a nonzero baud rate in an idle block. -/
theorem execConfig_next {baud : BitVec 32} {addr : Byte} {dp : Bool} (h : execConfig baud addr dp s = .next t) :
    baud ≠ 0#32 ∧ s.txc = .idle ∧ t = (s.setConfig baud addr dp).resetEngine.returnValue 0#16 := by
  unfold execConfig at h
  split_ifs at h with h1 h2
  injection h with h
  exact ⟨h1, not_not.1 h2, h.symm⟩

/-- CRC writes the response only. -/
theorem execCrc_next {n : Word16} (h : execCrc n s = .next t) :
    s.configured = true ∧ s.txc = .idle ∧ n.toNat ≤ s.len ∧ n.toNat ≤ s.params.capacity ∧
      t = s.returnValue (s.crc16 n.toNat) := by
  unfold execCrc at h
  split_ifs at h with h1 h2 h3
  obtain ⟨hc, hk⟩ := State.guardBuf_next s t h
  injection hk with hk
  exact ⟨by simpa using h1, by simpa [State.sending] using h2, by omega, hc, hk.symm⟩

/-! ### Built frames -/

/-- A built frame ends in its CRC. -/
theorem State.claimedCrc_buildFrame (body : List Byte) :
    (s.buildFrame body).claimedCrc = (s.buildFrame body).crc16 ((s.buildFrame body).len - 2) := by
  have hm : (s.buildFrame body).bufBytes 0 body.length = body :=
    State.bufBytes_eq _ rfl fun i hi => by rw [State.bufByte_buildFrame, if_pos hi]
  simp only [State.claimedCrc, State.buildFrame_len, Nat.add_sub_cancel, State.bufWord, State.crc16, hm, cat_eq]
  rw [State.bufByte_buildFrame, State.bufByte_buildFrame, if_neg (Nat.lt_irrefl _), if_pos rfl, if_neg (by omega),
    if_neg (by omega), if_pos rfl, cat_hi8_lo8]

/-! ### The slave's commands -/

/-- The precheck lets the command through, or fails without effect because a transmission is in progress. -/
theorem State.slavePrecheck_next {k : Result} (h : s.slavePrecheck k = .next t) :
    s.configured = true ∧
      ((s.txc ≠ .idle ∧ t = s.returnFail) ∨ (s.txc = .idle ∧ s.rxActive = false ∧ k = .next t)) := by
  unfold State.slavePrecheck at h
  split_ifs at h with h1 h2 h3
  · injection h with h
    exact ⟨by simpa using h1, .inl ⟨State.sending_eq_true.1 h2, h.symm⟩⟩
  · exact ⟨by simpa using h1, .inr ⟨by simpa [State.sending] using h2, by simpa using h3, h⟩⟩

/-- The error response: a built frame and the start of the controller. -/
theorem State.sendErrorFrame_next {who : Starter} {fc x : Byte} (h : s.sendErrorFrame who fc x = .next t) :
    5 ≤ s.params.capacity ∧
      t = ((s.setRespAvail false).buildFrame (errorBody s.myAddr fc x)).startSend who :=
  State.sendFrame_next _ t h

/-- SEND_ERR fails without effect, or builds the error frame. -/
theorem execSendErr_next {fc kind : Byte} (h : execSendErr fc kind s = .next t) :
    s.configured = true ∧
      (t = s.returnFail ∨
        (s.txc = .idle ∧ s.rxActive = false ∧ 5 ≤ s.params.capacity ∧ ∃ x,
          t = ((s.setRespAvail false).buildFrame (errorBody s.myAddr fc x)).startSend .sendErr)) := by
  obtain ⟨hc, ⟨-, ht⟩ | ⟨h1, h2, h⟩⟩ := State.slavePrecheck_next h
  · exact ⟨hc, .inl ht⟩
  · refine ⟨hc, ?_⟩
    split at h
    · injection h with h; exact .inl h.symm
    · obtain ⟨h3, h4⟩ := State.sendErrorFrame_next h
      exact .inr ⟨h1, h2, h3, _, h4⟩

theorem length_responseBody (addr fc length : Byte) (payload : List Byte) :
    (responseBody addr fc length payload).length = payload.length + 3 := rfl

theorem State.length_payload (s : State) (offset n : Nat) : (s.payload offset n).length = n := by
  simp [State.payload]

/-- SEND_RSP fails without effect, or builds the response. -/
theorem execSendRsp_next {fc length : Byte} {offset : Word16} (h : execSendRsp fc length offset s = .next t) :
    s.configured = true ∧
      (t = s.returnFail ∨
        (s.txc = .idle ∧ s.rxActive = false ∧ length.toNat + 5 ≤ s.params.capacity ∧
          t = ((s.draw.setRespAvail false).buildFrame
            (responseBody s.myAddr fc length (s.payload offset.toNat length.toNat))).startSend .sendRsp)) := by
  obtain ⟨hc, ⟨-, ht⟩ | ⟨h1, h2, h⟩⟩ := State.slavePrecheck_next h
  · exact ⟨hc, .inl ht⟩
  · refine ⟨hc, ?_⟩
    split_ifs at h with h3 h4
    · injection h with h; exact .inl h.symm
    · injection h with h; exact .inl h.symm
    · exact .inr ⟨h1, h2, by omega, (State.sendFrame_next _ t h).2⟩

/-! ### The master's commands -/

/-- MREAD fails without effect, or flushes the FIFO, sets the marker and builds the request. -/
theorem execMread_next {node fc : Byte} {start count : Word16} (h : execMread node fc start count s = .next t) :
    s.configured = true ∧
      (t = s.returnFail ∨
        (s.txc = .idle ∧ s.rxActive = false ∧ 8 ≤ s.params.capacity ∧
          t = ((s.rxFlush.setMarker node).buildFrame (requestBody node fc start count)).startSend .mread)) := by
  unfold execMread at h
  split_ifs at h with h1 h2
  · injection h with h; exact ⟨by simpa using h1, .inl h.symm⟩
  · obtain ⟨h3, h4⟩ := State.sendFrame_next _ t h
    simp only [not_or, Bool.not_eq_true] at h2
    exact ⟨by simpa using h1, .inr ⟨State.sending_eq_false.1 h2.2.2, h2.2.1, h3, h4⟩⟩

/-- MFETCH answers 0, or copies the payload to `dst` and answers its length. -/
theorem execMfetch_next {n : Word16} (h : execMfetch n s = .next t) :
    s.configured = true ∧ s.txc = .idle ∧
      (t = s.returnValue 0#16 ∨
        (s.respAvail = true ∧ 3 + (s.len - 5) ≤ s.params.capacity ∧ s.len - 5 = (s.bufByte 2).toNat ∧
          t = State.returnValue { s with dst := s.dst.writeBytes 0 (s.bufBytes 3 (s.len - 5)) }
            (BitVec.ofNat 16 (s.len - 5)))) := by
  unfold execMfetch at h
  split_ifs at h with h1 h2 h3
  · injection h with h
    exact ⟨by simpa using h1, by simpa [State.sending] using h2, .inl h.symm⟩
  · obtain ⟨hc, hk⟩ := State.guardBuf_next s t h
    refine ⟨by simpa using h1, by simpa [State.sending] using h2, ?_⟩
    split_ifs at hk with h4
    · injection hk with hk
      exact .inr ⟨by simpa using h3, hc, h4.2, hk.symm⟩
    · injection hk with hk
      exact .inl hk.symm

/-! ### The validator -/

/-- A good frame of a read request: the result registers are written. -/
theorem State.receiveRequest_next {f : Byte} (h : s.receiveRequest f = .next t) :
    6 ≤ s.params.capacity ∧
      t = State.returnStatus { s with outFunc := f, outStart := s.bufWord 2, outCount := s.bufWord 4 } .frameReceived := by
  obtain ⟨hc, hk⟩ := State.guardBuf_next s t h
  injection hk with hk
  exact ⟨hc, hk.symm⟩

/-- What the dispatch of a good frame can do. -/
theorem State.dispatchFrame_next (h : s.dispatchFrame = .next t) :
    (s.awaitValid = false ∧ s.bufByte 0 = s.myAddr ∧ 6 ≤ s.params.capacity ∧ ∃ f,
      t = State.returnStatus { s with outFunc := f, outStart := s.bufWord 2, outCount := s.bufWord 4 } .frameReceived) ∨
    (s.awaitValid = false ∧ s.bufByte 0 = s.myAddr ∧ s.bufByte 1 ≠ 3#8 ∧ s.bufByte 1 ≠ 4#8 ∧ 5 ≤ s.params.capacity ∧
      t = ((s.setRespAvail false).buildFrame (errorBody s.myAddr (s.bufByte 1) 0x01#8)).startSend .poll) ∨
    (s.awaitValid = true ∧ s.bufByte 0 = s.awaitAddr ∧
      t = (s.clearMarker.setRespAvail true).returnStatus .masterReceived) ∨
    (s.awaitValid = true ∧ s.bufByte 0 = s.awaitAddr ∧ t = s.clearMarker.returnStatus .masterError) ∨
    t = s.returnStatus .noFrames := by
  unfold State.dispatchFrame State.wireCase at h
  simp only [] at h
  by_cases h1 : s.bufByte 0 = s.myAddr ∧ s.awaitValid = false
  · rw [if_pos h1] at h
    simp only at h
    split_ifs at h with h3 h4
    · obtain ⟨hc, ht⟩ := State.receiveRequest_next h
      exact .inl ⟨h1.2, h1.1, hc, _, ht⟩
    · obtain ⟨hc, ht⟩ := State.receiveRequest_next h
      exact .inl ⟨h1.2, h1.1, hc, _, ht⟩
    · obtain ⟨hc, ht⟩ := State.sendErrorFrame_next h
      exact .inr (.inl ⟨h1.2, h1.1, ‹_›, ‹_›, hc, ht⟩)
  · rw [if_neg h1] at h
    by_cases h2 : s.awaitValid = true ∧ s.bufByte 0 = s.awaitAddr
    · rw [if_pos h2] at h
      simp only at h
      split_ifs at h
      · exact .inr (.inr (.inl ⟨h2.1, h2.2, (Host.Outcome.next.inj h).symm⟩))
      · exact .inr (.inr (.inl ⟨h2.1, h2.2, (Host.Outcome.next.inj h).symm⟩))
      · exact .inr (.inr (.inr (.inl ⟨h2.1, h2.2, (Host.Outcome.next.inj h).symm⟩)))
      · exact .inr (.inr (.inr (.inl ⟨h2.1, h2.2, (Host.Outcome.next.inj h).symm⟩)))
    · rw [if_neg h2] at h
      exact .inr (.inr (.inr (.inr (Host.Outcome.next.inj h).symm)))

/-- What the validator can do: a frame too short, a bad CRC, or the dispatch of a good frame. -/
theorem State.validate_next (h : s.validate = .next t) :
    (s.len < s.minLen ∧ t = s.clearMarker.returnStatus .errCorrupted) ∨
    (s.minLen ≤ s.len ∧ s.len ≤ s.params.capacity ∧ s.claimedCrc ≠ s.crc16 (s.len - 2) ∧
      t = s.clearMarker.returnStatus .errCrcFailed) ∨
    (s.minLen ≤ s.len ∧ s.len ≤ s.params.capacity ∧ s.claimedCrc = s.crc16 (s.len - 2) ∧ s.dispatchFrame = .next t) := by
  unfold State.validate at h
  by_cases h1 : s.len < s.minLen
  · rw [if_pos h1] at h
    injection h with h; exact .inl ⟨h1, h.symm⟩
  · rw [if_neg h1] at h
    obtain ⟨hc, hk⟩ := State.guardBuf_next s t h
    split_ifs at hk with h2
    · injection hk with hk; exact .inr (.inl ⟨by omega, hc, h2, hk.symm⟩)
    · exact .inr (.inr ⟨by omega, hc, not_not.1 h2, hk⟩)

/-! ### POLL -/

/-- What POLL can do, branch by branch. -/
theorem execPoll_next (h : execPoll s = .next t) :
    s.configured = true ∧
      ((s.txc ≠ .idle ∧ t = s.pollSending) ∨
       (s.txc = .idle ∧ s.masterExpired = true ∧ t = s.pollExpired) ∨
       (s.txc = .idle ∧ s.masterExpired = false ∧ s.rxFifo = [] ∧ s.rxActive = false ∧ t = s.returnStatus .noFrames) ∨
       (s.txc = .idle ∧ s.masterExpired = false ∧ s.rxFifo = [] ∧ s.rxActive = true ∧ s.withinT15 = true ∧
          t = s.returnStatus .frameReceiving) ∨
       (s.txc = .idle ∧ s.masterExpired = false ∧ s.rxFifo = [] ∧ s.rxActive = true ∧ s.withinT15 = false ∧
          s.overflow = true ∧ t = s.endReceive.returnStatus .errOverflow) ∨
       (s.txc = .idle ∧ s.masterExpired = false ∧ s.rxFifo = [] ∧ s.rxActive = true ∧ s.withinT15 = false ∧
          s.overflow = false ∧ s.endReceive.validate = .next t) ∨
       (s.txc = .idle ∧ s.masterExpired = false ∧ s.rxFifo ≠ [] ∧ t = s.pollReceive)) := by
  unfold execPoll at h
  split_ifs at h with h1 h2 h3 h4
  all_goals refine ⟨by simpa using h1, ?_⟩
  · injection h with h; exact .inl ⟨State.sending_eq_true.1 h2, h.symm⟩
  · injection h with h; exact .inr (.inl ⟨by simpa [State.sending] using h2, h3, h.symm⟩)
  · have i : s.txc = .idle := by simpa [State.sending] using h2
    have e : s.masterExpired = false := by simpa using h3
    have f : s.rxFifo = [] := by simpa [State.rxAvail] using h4
    unfold State.pollSilent at h
    split_ifs at h with h5 h6
    · injection h with h; exact .inr (.inr (.inl ⟨i, e, f, h5, h.symm⟩))
    · injection h with h; exact .inr (.inr (.inr (.inl ⟨i, e, f, by simpa using h5, h6, h.symm⟩)))
    · unfold State.completeFrame at h
      split_ifs at h with h7
      · injection h with h
        exact .inr (.inr (.inr (.inr (.inl ⟨i, e, f, by simpa using h5, by simpa using h6, h7, h.symm⟩))))
      · exact .inr (.inr (.inr (.inr (.inr (.inl
          ⟨i, e, f, by simpa using h5, by simpa using h6, by simpa using h7, h⟩)))))
  · injection h with h
    exact .inr (.inr (.inr (.inr (.inr (.inr
      ⟨by simpa [State.sending] using h2, by simpa using h3, by simpa [State.rxAvail] using h4, h.symm⟩)))))

/-- Branch B4 of POLL changes `buf`, `len`, the flags of the receive path, the FIFO, the time stamp and the response. -/
theorem State.pollReceive_eq (s : State) : s.pollReceive = { s with
    buf := s.pollReceive.buf, len := s.pollReceive.len, overflow := s.pollReceive.overflow, rxActive := true
    respAvail := s.rxActive && s.respAvail, rxFifo := [], tLastUs := s.nowUs
    rspOk := true, rspStatus := 1#4, rspValue := 0#16 } := by
  cases h : s.rxActive
  · have := State.drain_frame s.beginFrame s.rxFifo
    simp only [State.pollReceive, h, Bool.false_eq_true, if_false]
    rw [this]; simp [State.beginFrame, State.stampLast, State.respond, PollStatus.code]
  · have := State.drain_frame s s.rxFifo
    simp only [State.pollReceive, h, if_true]
    rw [this]; simp [State.stampLast, State.respond, PollStatus.code, h]

/-! ### The transmission controller -/

/-- The hand-off. -/
theorem State.handOff_next (h : s.handOff = .next t) :
    s.len ≤ s.params.capacity ∧
      t = { ((s.txWrite (s.bufBytes 0 s.len)).setTxc .active).returnStarter with starter := none } := by
  obtain ⟨hc, hk⟩ := State.guardBuf_next s t h
  injection hk with hk
  exact ⟨hc, hk.symm⟩

/-- The hand-off changes the transport, the controller and the response, and appends the frame to the transmit stream. -/
theorem State.handOff_frame (h : s.handOff = .next t) : t = { s with
    txBusy := true, txComplete := false, txLog := s.txLog ++ s.bufBytes 0 s.len, txc := .active, starter := none
    rspOk := t.rspOk, rspStatus := t.rspStatus, rspValue := t.rspValue } := by
  rw [(State.handOff_next h).2]
  unfold State.returnStarter
  cases hs : s.starter with
  | none => simp [hs, State.setTxc, State.txWrite]
  | some w => cases w <;> simp [hs, State.setTxc, State.txWrite, State.respond]

/-- When a micro-step is enabled, and which. -/
theorem State.microStep_some {r : Result} (h : s.microStep = some r) :
    (s.txc = .waitSilence ∧ s.withinT35 = false ∧ s.dePresent = true ∧ r = .next s.enableDriver) ∨
    (s.txc = .waitSilence ∧ s.withinT35 = false ∧ s.dePresent = false ∧ r = s.handOff) ∨
    (s.txc = .deSettle ∧ s.settling = false ∧ r = s.handOff) := by
  unfold State.microStep at h
  split at h
  · split_ifs at h with h1 h2
    · injection h with h; exact .inl ⟨‹_›, by simpa using h1, h2, h.symm⟩
    · injection h with h; exact .inr (.inl ⟨‹_›, by simpa using h1, by simpa using h2, h.symm⟩)
  · split_ifs at h with h1
    injection h with h; exact .inr (.inr ⟨‹_›, by simpa using h1, h.symm⟩)
  · cases h
  · cases h

/-- No micro-step is enabled outside the two waits. -/
theorem State.microStep_none_of_not_waiting (h : s.waiting = false) : s.microStep = none := by
  unfold State.microStep
  rcases State.waiting_eq_false.1 h with h | h <;> simp [h]

/-! ### One step -/

/-- The turn of a state: accepting a command, an event, or nothing. -/
theorem State.turn_cases (s : State) :
    (∃ w payload rest, s.inputs = .command w payload :: rest ∧ s.waiting = false ∧ s.turn = .accept w payload rest) ∨
    (∃ e rest, s.inputs = e :: rest ∧ (∀ w p, e ≠ .command w p) ∧ s.turn = .event e rest) ∨
    ((s.inputs = [] ∨ ∃ w payload rest, s.inputs = .command w payload :: rest ∧ s.waiting = true) ∧ s.turn = .idle) := by
  unfold State.turn
  split
  · rename_i h; exact .inr (.inr ⟨.inl h, rfl⟩)
  · rename_i w p r h
    by_cases hw : s.waiting = true
    · rw [if_pos hw]; exact .inr (.inr ⟨.inr ⟨w, p, r, h, hw⟩, rfl⟩)
    · rw [if_neg hw]; exact .inl ⟨w, p, r, h, by simpa using hw, rfl⟩
  · rename_i e r hn h
    exact .inr (.inl ⟨e, r, h, fun w p he => hn w p he, rfl⟩)

/-- What a step is: a micro-step, an accepted command, an event, or the passing of time. -/
theorem step_cases (s : State) :
    (∃ r, s.microStep = some r ∧ step s = r) ∨
    (s.microStep = none ∧ ∃ w payload rest, s.inputs = .command w payload :: rest ∧ s.waiting = false ∧
      step s = exec (decodeCommand w) (s.accepted payload rest)) ∨
    (s.microStep = none ∧ ∃ e rest, s.inputs = e :: rest ∧ (∀ w p, e ≠ .command w p) ∧
      step s = State.runEvent { s with inputs := rest } e) ∨
    (s.microStep = none ∧ (s.inputs = [] ∨ ∃ w payload rest, s.inputs = .command w payload :: rest ∧ s.waiting = true) ∧
      step s = .next s.idleTick) := by
  unfold step
  cases hm : s.microStep with
  | some r => exact .inl ⟨r, rfl, rfl⟩
  | none =>
    rcases s.turn_cases with ⟨w, p, r, h, hw, ht⟩ | ⟨e, r, h, hn, ht⟩ | ⟨h, ht⟩
    · exact .inr (.inl ⟨rfl, w, p, r, h, hw, by rw [ht]⟩)
    · exact .inr (.inr (.inl ⟨rfl, e, r, h, hn, by rw [ht]⟩))
    · exact .inr (.inr (.inr ⟨rfl, h, by rw [ht]⟩))

/-- What an event can do. -/
theorem State.runEvent_next {e : Input} (h : s.runEvent e = .next t) :
    (∃ b, e = .rxByte b ∧ t = s.rxByte b) ∨
    (e = .txDone ∧ s.txBusy = true ∧ t = { s with txBusy := false, txComplete := true }) ∨
    (∃ d, e = .tick d ∧ 1 ≤ d ∧ t = s.advance d) ∨
    (∃ fifo now, e = .reset fifo now ∧ t = s.powerOn fifo now) ∨
    (∃ w payload, e = .command w payload ∧ t = s) := by
  cases e with
  | rxByte b => injection h with h; exact .inl ⟨b, rfl, h.symm⟩
  | txDone =>
    simp only [State.runEvent, State.txDone] at h
    split_ifs at h with h1
    injection h with h; exact .inr (.inl ⟨rfl, h1, h.symm⟩)
  | tick d =>
    simp only [State.runEvent, State.tick] at h
    split_ifs at h with h1
    injection h with h; exact .inr (.inr (.inl ⟨d, rfl, by omega, h.symm⟩))
  | reset f n => injection h with h; exact .inr (.inr (.inr (.inl ⟨f, n, rfl, h.symm⟩)))
  | command w p => injection h with h; exact .inr (.inr (.inr (.inr ⟨w, p, rfl, h.symm⟩)))

/-- A command word decodes to one of the seven commands or to RESERVED_OP, never to a frame class. -/
theorem decodeCommand_cases (w : CmdWord) :
    (∃ b a d, decodeCommand w = .config b a d) ∨ (w = 0x2000000000000000#64 ∧ decodeCommand w = .poll) ∨
    (∃ fc k, decodeCommand w = .sendErr fc k) ∨ (∃ fc l o, decodeCommand w = .sendRsp fc l o) ∨
    (∃ a fc b c, decodeCommand w = .mread a fc b c) ∨ (∃ n, decodeCommand w = .mfetch n) ∨
    (∃ n, decodeCommand w = .crc n) ∨ decodeCommand w = .reservedOp w := by
  unfold decodeCommand
  split_ifs with h1 h2 h3 h4 h5 h6 h7
  · exact .inl ⟨_, _, _, rfl⟩
  · refine .inr (.inl ⟨?_, rfl⟩)
    have h : w &&& 0xFFFFFFFFFFFFFFFF#64 = 0x2000000000000000#64 := by simpa [CmdRow.fits, rowPoll] using h2
    rwa [show (0xFFFFFFFFFFFFFFFF#64 : CmdWord) = BitVec.allOnes 64 by decide, BitVec.and_allOnes] at h
  · exact .inr (.inr (.inl ⟨_, _, rfl⟩))
  · exact .inr (.inr (.inr (.inl ⟨_, _, _, rfl⟩)))
  · exact .inr (.inr (.inr (.inr (.inl ⟨_, _, _, _, rfl⟩))))
  · exact .inr (.inr (.inr (.inr (.inr (.inl ⟨_, rfl⟩)))))
  · exact .inr (.inr (.inr (.inr (.inr (.inr (.inl ⟨_, rfl⟩))))))
  · exact .inr (.inr (.inr (.inr (.inr (.inr (.inr rfl))))))

end Sys2Proof.Machine
end

