-- ==== Sys2Proof/Tests/Slice0.lean ====
section
/-!
SUPPORT. The model's own tests. Expected results are the spec's worked examples (95_test_vectors.md, by id) or its tables.
Then, for every statement with hypotheses, a witness that meets them together, each clause at a boundary of its range.
-/

namespace Sys2Proof.Tests

/- Each test is elaborated before the next: a hundred waiting tasks would take a thread each. -/
set_option Elab.async false

open Sys2Proof Sys2Proof.Machine

/-! ### Helpers -/

/-- A memory that holds the given bytes from address 0. -/
def memOf (bs : List Byte) : Memory := (List.range bs.length).zip bs

/-- The block of the spec's vectors: `C = 50`, timeout 1000 ms, settle 50 us, `CONFIG 9600, 5, 0` done. -/
def base : State :=
  { State.reset with
    params := ⟨50, 1000, 50⟩, configured := true, baud := 9600#32, myAddr := 5#8
    t15 := durationT15 9600#32, t35 := durationT35 9600#32 }

/-- A frame in the buffer. -/
def holding (s : State) (bs : List Byte) : State := { s with buf := memOf bs, len := bs.length }

/-- A frame that is being received, at the first instant at which a POLL completes it (9600 baud: 1563 us). -/
def complete (s : State) (bs : List Byte) : State :=
  { holding s bs with rxActive := true, tLastUs := 10000, nowUs := 11563 }

/-- A block awaiting a response from node 2, its own address 1. -/
def awaiting : State := { base with myAddr := 1#8, awaitValid := true, awaitAddr := 2#8, tReqMs := 4 }

/-- A send waiting for silence, one microsecond before it has elapsed (9600 baud: 3646 us). -/
def waitingSend : State :=
  { holding base [0x05#8, 0x86#8, 0x01#8, 0xC2#8, 0x61#8] with
    txc := .waitSilence, starter := some .sendErr, tLastUs := 1100, nowUs := 4745 }

/-- A transmission in progress. -/
def active : State := { base with txc := .active, txBusy := true }

/-- The next state of an outcome (any state when there is none). -/
def nextOf : Result → State
  | .next t => t
  | .fault _ => State.reset
  | .refused _ => State.reset

def isNext : Result → Bool
  | .next _ => true
  | .fault _ => false
  | .refused _ => false

theorem eq_next {r : Result} (h : isNext r = true) : r = .next (nextOf r) := by
  cases r <;> first | rfl | cases h

/-- Whether an outcome is a given refusal. -/
def refusedWith : Result → Option Refusal
  | .next _ => none
  | .fault _ => none
  | .refused r => some r

/-- The three response fields after an outcome. -/
def response (r : Result) : Bool × BitVec 4 × Word16 := ((nextOf r).rspOk, (nextOf r).rspStatus, (nextOf r).rspValue)

/-- The frame `buf[0..len)` of a state. -/
def frameOf (s : State) : List Byte := s.frameBytes s.len

def own8 : List Byte := [0x05#8, 0x03#8, 0x00#8, 0x01#8, 0x00#8, 0x02#8, 0x94#8, 0x4F#8]
def rsp7 : List Byte := [0x02#8, 0x03#8, 0x02#8, 0x12#8, 0x34#8, 0xF1#8, 0x33#8]
def exc7 : List Byte := [0x02#8, 0x83#8, 0x02#8, 0x00#8, 0x00#8, 0xD5#8, 0x84#8]
def other8 : List Byte := [0x05#8, 0x06#8, 0x00#8, 0x01#8, 0x00#8, 0x02#8, 0x58#8, 0x4F#8]
def foreign8 : List Byte := [0x09#8, 0x03#8, 0x00#8, 0x00#8, 0x00#8, 0x01#8, 0x85#8, 0x42#8]
def rsp13 : List Byte :=
  [0x02#8, 0x03#8, 0x08#8, 0x11#8, 0x22#8, 0x33#8, 0x44#8, 0x55#8, 0x66#8, 0x77#8, 0x88#8, 0x7B#8, 0xD8#8]

/-! ### Well-formedness: an ill-formed term for each check -/

/-- The POLL word is not reserved. -/
theorem smoke_reservedOp : (Instr.reservedOp 0x2000000000000000#64).wellFormed = false := by decide
theorem smoke_reservedOp_config : (Instr.reservedOp 0x1000025800580000#64).wellFormed = false := by decide
theorem smoke_reservedOp_sendErr : (Instr.reservedOp 0x3030200000000000#64).wellFormed = false := by decide
theorem smoke_reservedOp_sendRsp : (Instr.reservedOp 0x4030400020000000#64).wellFormed = false := by decide
theorem smoke_reservedOp_mread : (Instr.reservedOp 0x5020300000004000#64).wellFormed = false := by decide
theorem smoke_reservedOp_mfetch : (Instr.reservedOp 0x6000800000000000#64).wellFormed = false := by decide
theorem smoke_reservedOp_crc : (Instr.reservedOp 0x7000600000000000#64).wellFormed = false := by decide
theorem smoke_wireReqOther_read : (Instr.wireReqOther 5#8 3#8).wellFormed = false := by decide
theorem smoke_wireReqOther_input : (Instr.wireReqOther 5#8 4#8).wellFormed = false := by decide
theorem smoke_wireExc : (Instr.wireExc 2#8 0x03#8).wellFormed = false := by decide
theorem smoke_wireRspOther_read : (Instr.wireRspOther 2#8 3#8).wellFormed = false := by decide
theorem smoke_wireRspOther_input : (Instr.wireRspOther 2#8 4#8).wellFormed = false := by decide
theorem smoke_wireRspOther_exc : (Instr.wireRspOther 2#8 0x80#8).wellFormed = false := by decide

/-! ### Decoding: words of the spec (VE1 to VE9, VS2, VS8, P3) -/

theorem test_decode_config : decodeCommand 0x1000025800580000#64 = .config 9600#32 5#8 true := by decide
theorem test_decode_config_max : decodeCommand 0x10001C200FF80000#64 = .config 115200#32 255#8 true := by decide
theorem test_decode_poll : decodeCommand 0x2000000000000000#64 = .poll := by decide
theorem test_decode_sendErr : decodeCommand 0x3060100000000000#64 = .sendErr 6#8 1#8 := by decide
theorem test_decode_sendRsp : decodeCommand 0x4030400020000000#64 = .sendRsp 3#8 4#8 2#16 := by decide
theorem test_decode_mread : decodeCommand 0x5020300000004000#64 = .mread 2#8 3#8 0#16 4#16 := by decide
theorem test_decode_mfetch : decodeCommand 0x6004000000000000#64 = .mfetch 64#16 := by decide
theorem test_decode_crc : decodeCommand 0x7000B00000000000#64 = .crc 11#16 := by decide
theorem test_decode_reserved_bit : decodeCommand 0x5020300000004800#64 = .reservedOp 0x5020300000004800#64 := by decide
theorem test_decode_reserved_op : decodeCommand 0x8000000000000000#64 = .reservedOp 0x8000000000000000#64 := by decide
theorem test_reason_bit : reservedReason 0x2000000000000001#64 = some .reservedBit := by decide
theorem test_reason_opcode : reservedReason 0xF000000000000000#64 = some .opcode := by decide
theorem test_reason_none : reservedReason 0x2000000000000000#64 = none := by decide

/-- Keys written out bit by bit from R111: the address byte in bits 15:8, the function byte in bits 7:0. -/
theorem test_decode_own : decodeWire .own 0x0503#16 = .wireReqReadHolding 5#8 ∧
    decodeWire .own 0x0504#16 = .wireReqReadInput 5#8 ∧ decodeWire .own 0x0506#16 = .wireReqOther 5#8 6#8 ∧
    decodeWire .own 0x0583#16 = .wireReqOther 5#8 0x83#8 := by decide
theorem test_decode_awaited : decodeWire .awaited 0x0203#16 = .wireRspReadHolding 2#8 ∧
    decodeWire .awaited 0x0204#16 = .wireRspReadInput 2#8 ∧ decodeWire .awaited 0x0283#16 = .wireExc 2#8 0x83#8 ∧
    decodeWire .awaited 0x0205#16 = .wireRspOther 2#8 5#8 := by decide
theorem test_decode_foreign : decodeWire .foreign 0x0903#16 = .wireForeign 9#8 3#8 := by decide

/-- Words numbered as the table numbers them; no other width is a row. -/
theorem test_table_command : decodeTableWord 64 0x7000600000000000 = some (.crc 6#16) := by decide
theorem test_table_key : decodeTableWord 16 0x0003 = some (.wireReqReadHolding 0#8) ∧
    decodeTableWord 16 0x0080 = some (.wireExc 0#8 0x80#8) := by decide
theorem test_table_width : decodeTableWord 32 0 = none := by decide

/-! ### The CRC (95_test_vectors.md section 2.1) -/

/-- The bit-level trace of VC3: the register after two of the eight shift steps, and after all. -/
theorem test_crc_trace : crcShifts 2 0xFFFE#16 = 0x9FFE#16 ∧ crcByte 0xFFFF#16 0x01#8 = 0x807E#16 := by decide +kernel
theorem test_crc_vc15 : crcOutput (rsp13.take 11) = 0x7BD8#16 := by decide +kernel
theorem test_crc_residue : crcRaw own8 = 0x0000#16 := by decide +kernel

/-! ### Timing (section 2.2): the last elapsed time that has not expired, and the first that has -/

theorem test_t15_9600 : (durationT15 9600#32).notElapsed 1562 = true ∧ (durationT15 9600#32).notElapsed 1563 = false := by
  decide
theorem test_t15_4800 : (durationT15 4800#32).notElapsed 3124 = true ∧ (durationT15 4800#32).notElapsed 3125 = false := by
  decide
theorem test_t35_knee : (durationT35 19200#32).notElapsed 1822 = true ∧ (durationT35 19200#32).notElapsed 1823 = false ∧
    (durationT35 19201#32).notElapsed 1749 = true ∧ (durationT35 19201#32).notElapsed 1750 = false := by decide

/-! ### Commands -/

/-- VE11: a second CONFIG clears the engine and does not flush the FIFO. -/
theorem test_config : (let t := nextOf (exec (.config 9600#32 9#8 false)
      { holding base rsp13 with awaitValid := true, respAvail := true, rxFifo := [1#8] })
    (t.myAddr, t.len, t.awaitValid, t.respAvail, t.tLastUs, t.rxFifo)) = (9#8, 0, false, false, 0, [1#8]) := by
  decide +kernel
/-- VE5. -/
theorem test_config_baud0 : refusedWith (exec (.config 0#32 5#8 false) base) = some .configBaudZero := by decide +kernel

/-- VA13: room for one byte of three. -/
theorem test_poll_overflow : (let t := nextOf (exec .poll
      { base with rxActive := true, len := 49, rxFifo := [0xAA#8, 0xBB#8, 0xCC#8] })
    (t.len, t.overflow, t.bufByte 49, t.rxFifo)) = (50, true, 0xAA#8, []) := by decide +kernel
/-- VA11: at the poll that detects the master timeout no byte is read. -/
theorem test_poll_timeout : (let t := nextOf (exec .poll
      { base with awaitValid := true, tReqMs := 100, rxActive := true, len := 4, rxFifo := [0x34#8], nowUs := 1101000 })
    (t.awaitValid, t.rxFifo, t.len, t.rspStatus)) = (false, [0x34#8], 4, 1#4) := by decide +kernel

/-- VS1: the frame that `SEND_ERR 3, 2` builds. -/
theorem test_sendErr : frameOf (nextOf (exec (.sendErr 3#8 2#8) base)) = [0x05#8, 0x83#8, 0x02#8, 0x81#8, 0x30#8] := by
  decide +kernel
/-- VS3, VS6: FAIL, and `resp_avail` is not cleared. -/
theorem test_sendErr_fail : response (exec (.sendErr 3#8 3#8) base) = (false, 0#4, 0#16) ∧
    (nextOf (exec (.sendErr 3#8 2#8) { active with respAvail := true })).respAvail = true := by decide +kernel

/-- VS8: the payload starts at the offset. -/
theorem test_sendRsp : frameOf (nextOf (exec (.sendRsp 3#8 4#8 2#16)
      { base with pl := memOf [0xFF#8, 0xFF#8, 0x00#8, 0x0A#8, 0x00#8, 0x14#8] })) =
    [0x05#8, 0x03#8, 0x04#8, 0x00#8, 0x0A#8, 0x00#8, 0x14#8, 0x9F#8, 0xFE#8] := by decide +kernel
/-- VS10 and the next length: 45 fits `C = 50`, 46 does not. -/
theorem test_sendRsp_fit : (nextOf (exec (.sendRsp 3#8 45#8 0#16) base)).len = 50 ∧
    response (exec (.sendRsp 3#8 46#8 0#16) base) = (false, 0#4, 0#16) := by decide +kernel

/-- T7, P3: the request frame, the marker and the flush. -/
theorem test_mread : (let t := nextOf (exec (.mread 2#8 3#8 0#16 4#16) { base with rxFifo := [0xAA#8], nowUs := 5000000 })
    (frameOf t, t.awaitValid, t.awaitAddr, t.tReqMs, t.rxFifo)) =
    ([0x02#8, 0x03#8, 0x00#8, 0x00#8, 0x00#8, 0x04#8, 0x44#8, 0x3A#8], true, 2#8, 5000, []) := by decide +kernel
/-- R221: 22 registers fit `C = 50`, 23 do not, and the product does not wrap. -/
theorem test_mread_fit : isNext (exec (.mread 254#8 4#8 0#16 22#16) base) = true ∧
    response (exec (.mread 254#8 4#8 0#16 23#16) base) = (false, 0#4, 0#16) ∧
    response (exec (.mread 254#8 4#8 0#16 0x8000#16) base) = (false, 0#4, 0#16) := by decide +kernel

/-- VM13, VM14. -/
theorem test_mfetch : (let s := { holding base rsp13 with respAvail := true }
    let t := nextOf (exec (.mfetch 8#16) s)
    (t.rspValue, t.dst, (nextOf (exec (.mfetch 7#16) s)).rspValue)) =
    (8#16, memOf [0x11#8, 0x22#8, 0x33#8, 0x44#8, 0x55#8, 0x66#8, 0x77#8, 0x88#8], 0#16) := by decide +kernel
/-- VM17: the declared byte-count does not match. -/
theorem test_mfetch_mismatch : response (exec (.mfetch 64#16)
    { holding base [0x02#8, 0x03#8, 0x04#8, 0x12#8, 0x34#8, 0#8, 0#8] with respAvail := true }) = (true, 0#4, 0#16) := by
  decide +kernel

/-- Section 2.1: `CRC 6`, `CRC 8`, and `CRC 9` is refused. -/
theorem test_crc : response (exec (.crc 6#16) (holding base own8)) = (true, 0#4, 0x944F#16) ∧
    response (exec (.crc 8#16) (holding base own8)) = (true, 0#4, 0x0000#16) ∧
    refusedWith (exec (.crc 9#16) (holding base own8)) = some .crcBeyondLen := by decide +kernel

/-- VE7. -/
theorem test_reserved : response (exec (.reservedOp 0x2000000000000001#64) base) = (false, 0#4, 0#16) := by decide +kernel

/-! ### The classes of received frames, through POLL (section 2.4) -/

/-- VV1. -/
theorem test_own_holding : (let t := nextOf (exec .poll (complete base own8))
    (t.rspStatus, t.outFunc, t.outStart, t.outCount, t.rxActive)) = (2#4, 3#8, 1#16, 2#16, false) := by decide +kernel
/-- VV11. -/
theorem test_own_input : (let t := nextOf (exec .poll
      (complete base [0x05#8, 0x04#8, 0x02#8, 0x00#8, 0x0A#8, 0x00#8, 0x14#8, 0x16#8, 0x49#8]))
    (t.rspStatus, t.outFunc, t.outStart, t.outCount)) = (2#4, 4#8, 0x0200#16, 0x0A00#16) := by decide +kernel
/-- VV10: the answer stands in `buf`, the POLL in progress. -/
theorem test_own_other : (let t := nextOf (exec .poll (complete base other8))
    (frameOf t, t.txc, t.starter)) = ([0x05#8, 0x86#8, 0x01#8, 0xC2#8, 0x61#8], .waitSilence, some .poll) := by
  decide +kernel
/-- VV3. -/
theorem test_awaited_holding : (let t := nextOf (exec .poll (complete awaiting rsp7))
    (t.rspStatus, t.awaitValid, t.respAvail)) = (5#4, false, true) := by decide +kernel
/-- R187, function code 4. -/
theorem test_awaited_input : (let t := nextOf (exec (.wireRspReadInput 2#8) awaiting)
    (t.rspStatus, t.awaitValid, t.respAvail)) = (5#4, false, true) := by decide +kernel
/-- VV5. -/
theorem test_awaited_exc : (let t := nextOf (exec .poll (complete awaiting exc7))
    (t.rspStatus, t.awaitValid, t.respAvail)) = (6#4, false, false) := by decide +kernel
/-- R187, "or is otherwise unrecognized". -/
theorem test_awaited_other : (let t := nextOf (exec (.wireRspOther 2#8 5#8) awaiting)
    (t.rspStatus, t.awaitValid, t.respAvail)) = (6#4, false, false) := by decide +kernel
/-- VV8: the marker is kept. -/
theorem test_foreign : (let t := nextOf (exec .poll (complete awaiting foreign8))
    (t.rspStatus, t.awaitValid)) = (0#4, true) := by decide +kernel
/-- VV9: own address is not served while awaiting. -/
theorem test_foreign_own : (nextOf (exec .poll (complete awaiting
    [0x01#8, 0x03#8, 0x00#8, 0x00#8, 0x00#8, 0x01#8, 0x84#8, 0x0A#8]))).rspStatus = 0#4 := by decide +kernel
/-- VV4, VV6: a 5-byte exception response; CRC bytes exchanged. -/
theorem test_corrupted_crc : (nextOf (exec .poll (complete awaiting
      [0x02#8, 0x83#8, 0x02#8, 0x30#8, 0xF1#8]))).rspStatus = 8#4 ∧
    (nextOf (exec .poll (complete base
      [0x05#8, 0x03#8, 0x00#8, 0x01#8, 0x00#8, 0x02#8, 0x4F#8, 0x94#8]))).rspStatus = 9#4 := by decide +kernel

/-! ### Steps -/

/-- VX2: `de <- 1` at 4746, the hand-off at 4796. -/
theorem test_enable : (let t := nextOf (step { waitingSend with nowUs := 4746, dePresent := true })
    (t.de, t.tDeUs, t.txc)) = (true, 4746, .deSettle) := by decide +kernel
theorem test_handOff : (let t := nextOf (step
      { waitingSend with txc := .deSettle, tDeUs := 4746, nowUs := 4796, de := true, dePresent := true, starter := some .poll })
    (t.txLog, t.txBusy, t.txc, t.rspStatus)) =
    ([0x05#8, 0x86#8, 0x01#8, 0xC2#8, 0x61#8], true, .active, 10#4) := by decide +kernel
/-- P1: a command word is accepted, executed and taken from the inputs. -/
theorem test_step_command : (let t := nextOf (step { base with inputs := [.command 0x7000000000000000#64 []] })
    (t.rspValue, t.inputs)) = (0xFFFF#16, []) := by decide +kernel
/-- R261: a command waits while a send waits. -/
theorem test_step_busy : (nextOf (step { waitingSend with inputs := [.command 0x2000000000000000#64 []] })).inputs =
    [.command 0x2000000000000000#64 []] := by decide +kernel
theorem test_step_rxByte : (nextOf (step { base with rxFifo := [1#8], inputs := [.rxByte 2#8] })).rxFifo = [1#8, 2#8] := by
  decide +kernel
theorem test_step_txDone : (nextOf (step { active with inputs := [.txDone] })).txComplete = true := by decide +kernel
theorem test_step_tick : (nextOf (step { base with inputs := [.tick 7] })).nowUs = 7 := by decide +kernel
theorem test_step_reset : (let t := nextOf (step { holding active own8 with inputs := [.reset [9#8] 3] })
    (t.configured, t.len, t.txc, t.rxFifo, t.nowUs)) = (false, 0, .idle, [9#8], 3) := by decide +kernel

/-- One placed instruction runs as the first after reset: a command, and a frame class inside its POLL. -/
theorem test_place_command : (nextOf (step (State.reset.withFetchWord 64 0x7000000000000000))).rspValue = 0xFFFF#16 := by
  decide +kernel
theorem test_place_config : (nextOf (step (State.reset.withFetchWord 64 0x1000025800580000))).myAddr = 5#8 := by
  decide +kernel
theorem test_place_own : (nextOf (step (State.reset.withFetchWord 16 0x0003))).rspStatus = 2#4 := by decide +kernel
theorem test_place_awaited : (nextOf (step (State.reset.withFetchWord 16 0x0280))).rspStatus = 6#4 := by decide +kernel
theorem test_place_foreign : (let t := nextOf (step (State.reset.withFetchWord 16 0xFF03))
    (t.rspOk, t.rspStatus, t.rxActive)) = (true, 0#4, false) := by decide +kernel

/-- A write of a memory keeps the canonical form, out of order and over an old byte. -/
theorem test_memory : Memory.writeBytes (Memory.write (Memory.write [] 5 1#8) 2 2#8) 4 [3#8, 4#8] =
    [(2, 2#8), (4, 3#8), (5, 4#8)] := by decide +kernel

/-! ### Witnesses: the hypotheses of each statement can be met, clause by clause -/

/-- The POLL word at the head of the inputs. -/
def polled (s : State) : State := { s with inputs := [.command 0x2000000000000000#64 []] }

/-- One command word at the head of the inputs. -/
def given (s : State) (w : CmdWord) : State := { s with inputs := [.command w []] }

/-- A send whose driver settles: one microsecond before the hand-off. -/
def settlingSend : State :=
  { waitingSend with txc := .deSettle, tDeUs := 4746, nowUs := 4795, de := true, dePresent := true }

theorem witness_DecodeUndoesEncode : (Instr.reservedOp 0#64).wellFormed = true ∧
    (Instr.config 0xFFFFFFFF#32 255#8 true).wellFormed = true ∧ (Instr.wireReqOther 5#8 0x83#8).wellFormed = true ∧
    (Instr.wireExc 2#8 0x80#8).wellFormed = true ∧ (Instr.wireRspOther 2#8 0x7F#8).wellFormed = true := by decide

theorem witness_CommandRowsNeverOverlap : (commandRows.get ⟨1, by decide⟩).fits 0x2000000000000000#64 = true ∧
    (commandRows.get ⟨6, by decide⟩).fits 0x7FFFF00000000000#64 = true := by decide

theorem witness_ReservedWordIsAnsweredWithoutEffect : CmdWord.isReserved 0x2000000000000001#64 = true ∧
    CmdWord.isReserved 0x0000000000000000#64 = true ∧ CmdWord.isReserved 0x8000000000000000#64 = true ∧
    CmdWord.isReserved 0x3030200000000001#64 = true := by decide

/-- The eight bytes of the spec's request, the shortest frame of a slave; the same frame built from its first six. -/
theorem witness_AppendedCrcValidates :
    (∃ (s : State) (m : List Byte),
      (∀ i, i < m.length → s.bufByte i = m.getD i 0#8) ∧
      s.bufByte m.length ++ s.bufByte (m.length + 1) = Spec.crcOutput m ∧ s.len = m.length + 2 ∧
      s.longEnough ∧ s.len ≤ s.params.capacity) ∧
    ∃ (s : State) (body : List Byte), (s.buildFrame body).longEnough ∧
      (s.buildFrame body).len ≤ (s.buildFrame body).params.capacity := by
  refine ⟨⟨holding base own8, own8.take 6, ?_, ?_, ?_, ?_, ?_⟩, base, own8.take 6, ?_, ?_⟩ <;>
  first | decide +kernel | (unfold State.longEnough; decide +kernel)

theorem witness_CrcCommand : State.reset.configured = false ∧
    (active.configured = true ∧ active.txc ≠ .idle) ∧
    (let s := holding base own8
     s.configured = true ∧ s.txc = .idle ∧ s.len < (9#16).toNat ∧ (8#16).toNat ≤ s.len ∧ s.len ≤ s.params.capacity) := by
  decide +kernel

theorem witness_ConfigCommand : base.txc = .idle ∧ active.txc ≠ .idle ∧ (19200#32).toNat ≤ 19200 ∧
    ¬ (19201#32).toNat ≤ 19200 ∧ (19201#32) ≠ 0#32 := by decide +kernel

/-- 9600 baud: the rational 1562.5 is not its floor; 19200 and 19201 baud lie on the two sides of the knee. -/
theorem witness_DurationsCompareExactly : 9600#32 ≠ 0#32 ∧ ((⌊(1562.5 : ℚ)⌋₊ : ℕ) : ℚ) ≠ 1562.5 ∧
    19200#32 ≠ 0#32 ∧ 19201#32 ≠ 0#32 := by
  refine ⟨by decide, ?_, by decide, by decide⟩
  intro h
  have h2 : ((2 * ⌊(1562.5 : ℚ)⌋₊ : ℕ) : ℚ) = ((3125 : ℕ) : ℚ) := by push_cast; rw [h]; norm_num
  have h3 := Nat.cast_injective h2
  omega

theorem witness_CommandsBeforeConfigAreRefused : State.reset.configured = false := rfl

theorem witness_StepRunsTheDecodedCommand :
    ((polled base).inputs = [.command 0x2000000000000000#64 []] ∧ (polled base).txc = .idle) ∧
    ((polled active).inputs = [.command 0x2000000000000000#64 []] ∧ (polled active).txc = .active) := by
  decide +kernel

/-- Both waits, one microsecond before they end. -/
theorem witness_BusyInterfaceAcceptsNoCommand :
    ((polled waitingSend).txc = .waitSilence ∧ (4745 - 1100) * waitingSend.t35.den < waitingSend.t35.num) ∧
    ((polled settlingSend).txc = .deSettle ∧ settlingSend.nowUs - settlingSend.tDeUs < settlingSend.params.deSettleUs) := by
  decide +kernel

theorem witness_PollDuringTransmission : active.configured = true ∧ active.txc ≠ .idle ∧ active.txComplete = false ∧
    ({ active with txComplete := true } : State).txComplete = true := by decide +kernel

/-- VA9, VA10: ages of exactly 1000 ms and of 1001 ms. -/
theorem witness_PollAbandonsExpiredRequest : awaiting.configured = true ∧ awaiting.txc = .idle ∧
    awaiting.awaitValid = true ∧ awaiting.rxFifo = [] ∧ awaiting.rxActive = false ∧ awaiting.tReqMs = 4 ∧
    1005000 / 1000 - 4 > awaiting.params.masterTimeoutMs ∧ 1004999 / 1000 - 4 = awaiting.params.masterTimeoutMs := by
  decide +kernel

theorem pollReceives_of (s : State) (h1 : s.configured = true) (h2 : s.txc = .idle) (h3 : s.awaitValid = false) :
    s.pollReceives := ⟨h1, h2, fun h => by have := h.1; rw [h3] at this; cases this⟩

theorem pollReceives_awaiting (s : State) (h1 : s.configured = true) (h2 : s.txc = .idle)
    (h3 : s.nowUs / 1000 - s.tReqMs ≤ s.params.masterTimeoutMs) : s.pollReceives :=
  ⟨h1, h2, fun h => by have := h.2; omega⟩

/-- VA1, VA3. -/
theorem witness_PollWithoutBytesWaits :
    (base.pollReceives ∧ base.rxFifo = [] ∧ base.rxActive = false) ∧
    ∃ s : State, s.pollReceives ∧ s.rxFifo = [] ∧ s.rxActive = true ∧
      (s.nowUs - s.tLastUs) * s.t15.den < s.t15.num :=
  ⟨⟨pollReceives_of _ rfl rfl rfl, rfl, rfl⟩, { complete base own8 with nowUs := 11562 },
    pollReceives_of _ rfl rfl rfl, rfl, rfl, by decide +kernel⟩

/-- VA2 (a new frame), VA13 (a frame that overflows). -/
theorem witness_PollDrainsTheFifo :
    (∃ s : State, s.pollReceives ∧ s.rxFifo ≠ [] ∧ s.len ≤ s.params.capacity ∧ s.rxActive = false) ∧
    ∃ s : State, s.pollReceives ∧ s.rxFifo ≠ [] ∧ s.len ≤ s.params.capacity ∧ s.rxActive = true ∧
      s.params.capacity - s.len < s.rxFifo.length :=
  ⟨⟨{ base with rxFifo := [5#8], len := 50 }, pollReceives_of _ rfl rfl rfl, by decide +kernel, by decide +kernel, rfl⟩,
    { base with rxFifo := [5#8, 6#8], len := 49, rxActive := true }, pollReceives_of _ rfl rfl rfl,
    by decide +kernel, by decide +kernel, rfl, by decide +kernel⟩

theorem frameCompletes_of (bs : List Byte) : (complete base bs).frameCompletes :=
  ⟨pollReceives_of _ rfl rfl rfl, rfl, rfl, (by decide +kernel : (15000000 : Nat) ≤ (11563 - 10000) * 9600)⟩

theorem frameCompletes_awaiting (bs : List Byte) : (complete awaiting bs).frameCompletes :=
  ⟨pollReceives_awaiting _ rfl rfl (by decide +kernel : (11563 : Nat) / 1000 - 4 ≤ 1000), rfl, rfl,
    (by decide +kernel : (15000000 : Nat) ≤ (11563 - 10000) * 9600)⟩

theorem witness_CompletedFrameIsReportedOrValidated :
    (∃ s : State, s.frameCompletes ∧ s.overflow = true) ∧ ∃ s : State, s.frameCompletes ∧ s.overflow = false :=
  ⟨⟨{ complete base own8 with overflow := true }, frameCompletes_of own8, rfl⟩, complete base own8, frameCompletes_of own8, rfl⟩

theorem witness_PollAlwaysCompletes : base.configured = true ∧ 8 ≤ base.params.capacity ∧
    base.len ≤ base.params.capacity := by decide +kernel

/-- VV2 (7 bytes, no request outstanding), and 6 bytes while one is. -/
theorem witness_ShortFrameIsCorrupted :
    (∃ s : State, s.frameCompletes ∧ s.overflow = false ∧ ¬ s.longEnough ∧ s.len = 7) ∧
    ∃ s : State, s.frameCompletes ∧ s.overflow = false ∧ ¬ s.longEnough ∧ s.len = 6 ∧ s.awaitValid = true := by
  refine ⟨⟨complete base (own8.take 7), frameCompletes_of _, rfl, ?_, rfl⟩,
    complete awaiting (rsp7.take 6), frameCompletes_awaiting _, rfl, ?_, rfl, rfl⟩ <;>
  unfold State.longEnough <;> decide +kernel

/-- VV6; and a 7-byte frame while a request is outstanding. -/
theorem witness_BadCrcIsReported :
    (∃ s : State, s.frameCompletes ∧ s.overflow = false ∧ s.longEnough ∧ s.len ≤ s.params.capacity ∧ ¬ s.crcGood) ∧
    ∃ s : State, s.frameCompletes ∧ s.overflow = false ∧ s.longEnough ∧ s.len ≤ s.params.capacity ∧ ¬ s.crcGood ∧
      s.awaitValid = true := by
  refine ⟨⟨complete base (own8.take 6 ++ [0x4F#8, 0x94#8]), frameCompletes_of _, rfl, ?_, ?_, ?_⟩,
    complete awaiting (rsp7.take 6 ++ [0x34#8]), frameCompletes_awaiting _, rfl, ?_, ?_, ?_, rfl⟩ <;>
  first | (unfold State.longEnough; decide +kernel) | (unfold State.crcGood; decide +kernel) | decide +kernel

/-- VV1 (OWN), VV3 (AWAITED), VV8 (FOREIGN). -/
theorem witness_PollRunsTheDecodedFrameClass :
    (∃ s : State, s.frameCompletes ∧ s.overflow = false ∧ s.longEnough ∧ s.len ≤ s.params.capacity ∧ s.crcGood ∧
      s.bufByte 0 = s.myAddr ∧ s.awaitValid = false) ∧
    (∃ s : State, s.frameCompletes ∧ s.overflow = false ∧ s.longEnough ∧ s.len ≤ s.params.capacity ∧ s.crcGood ∧
      s.awaitValid = true ∧ s.bufByte 0 = s.awaitAddr) ∧
    ∃ s : State, s.frameCompletes ∧ s.overflow = false ∧ s.longEnough ∧ s.len ≤ s.params.capacity ∧ s.crcGood ∧
      ¬ (s.bufByte 0 = s.myAddr ∧ s.awaitValid = false) ∧ ¬ (s.awaitValid = true ∧ s.bufByte 0 = s.awaitAddr) := by
  refine ⟨⟨complete base own8, frameCompletes_of _, rfl, ?_, ?_, ?_, ?_, ?_⟩,
    ⟨complete awaiting rsp7, frameCompletes_awaiting _, rfl, ?_, ?_, ?_, ?_, ?_⟩,
    complete awaiting foreign8, frameCompletes_awaiting _, rfl, ?_, ?_, ?_, ?_, ?_⟩ <;>
  first | decide +kernel | (unfold State.longEnough; decide +kernel) | (unfold State.crcGood; decide +kernel)

/-- The smallest buffer. -/
theorem witness_OwnReadRequestIsReported : ∃ s : State, 8 ≤ s.params.capacity ∧ s.params.capacity = 8 :=
  ⟨{ base with params := ⟨8, 1000, 50⟩ }, by decide +kernel, rfl⟩

theorem witness_OwnUnservedFunctionIsAnswered : ∃ s : State, 8 ≤ s.params.capacity ∧ s.params.capacity = 8 :=
  ⟨{ base with params := ⟨8, 1000, 50⟩ }, by decide +kernel, rfl⟩

theorem witness_SendErrBuildsTheErrorFrame : base.configured = true ∧ base.txc = .idle ∧ base.rxActive = false ∧
    8 ≤ base.params.capacity ∧ ((1#8 : Byte) = 1#8 ∨ (1#8 : Byte) = 2#8) ∧ ((2#8 : Byte) = 1#8 ∨ (2#8 : Byte) = 2#8) := by
  decide +kernel

/-- VS9, VS10: the shortest and the longest payload. -/
theorem witness_SendRspBuildsTheResponse : base.configured = true ∧ base.txc = .idle ∧ base.rxActive = false ∧
    (0#8 : Byte).toNat + 5 ≤ base.params.capacity ∧ (45#8 : Byte).toNat + 5 ≤ base.params.capacity := by
  decide +kernel

theorem witness_FailingSlaveSendHasNoEffect :
    (active.configured = true ∧ active.txc ≠ .idle) ∧
    (base.configured = true ∧ base.rxActive = false ∧ (3#8 : Byte) ≠ 1#8 ∧ (3#8 : Byte) ≠ 2#8) ∧
    ((6#8 : Byte) ≠ 3#8 ∧ (6#8 : Byte) ≠ 4#8) ∧ base.params.capacity < (46#8 : Byte).toNat + 5 := by
  decide +kernel

theorem witness_SlaveSendWhileReceivingIsRefused : ∃ s : State, s.configured = true ∧ s.txc = .idle ∧ s.rxActive = true :=
  ⟨complete base own8, rfl, rfl, rfl⟩

/-- Nodes 1 and 254, 22 registers in a buffer of 50. -/
theorem witness_MreadBuildsTheRequest : base.configured = true ∧ base.txc = .idle ∧ base.rxActive = false ∧
    8 ≤ base.params.capacity ∧ 1 ≤ (1#8 : Byte).toNat ∧ (254#8 : Byte).toNat ≤ 254 ∧ (22#16 : Word16) ≠ 0#16 ∧
    (22#16 : Word16).toNat * 2 + 5 ≤ base.params.capacity := by decide +kernel

/-- VM3, VM4, VM9, VM8, VM7, VM10: each cause of rejection at its boundary. -/
theorem witness_RejectedMreadHasNoEffect : base.configured = true ∧ (0#8 : Byte).toNat < 1 ∧ 254 < (255#8 : Byte).toNat ∧
    ((6#8 : Byte) ≠ 3#8 ∧ (6#8 : Byte) ≠ 4#8) ∧ base.params.capacity < (23#16 : Word16).toNat * 2 + 5 ∧
    ((complete base own8).configured = true ∧ (complete base own8).rxActive = true) ∧
    (active.configured = true ∧ active.txc ≠ .idle) := by decide +kernel

/-- VM13 (a budget of exactly 8), VM14 (a budget of 7), VM16 (the shortest response). -/
theorem witness_MfetchCopiesOnlyAMatchingPayload :
    (let s := { holding base rsp13 with respAvail := true }
     s.configured = true ∧ s.txc = .idle ∧ s.respAvail = true ∧ 7 ≤ s.len ∧ s.len ≤ s.params.capacity ∧
       (s.len - 5 ≤ (8#16 : Word16).toNat ∧ s.len - 5 = (s.bufByte 2).toNat) ∧
       ¬ (s.len - 5 ≤ (7#16 : Word16).toNat ∧ s.len - 5 = (s.bufByte 2).toNat)) ∧
    (let s := { holding base rsp7 with respAvail := true }
     7 ≤ s.len ∧ s.len - 5 ≤ (2#16 : Word16).toNat ∧ s.len - 5 = (s.bufByte 2).toNat) := by decide +kernel

theorem witness_MfetchWithoutAResponse : (active.configured = true ∧ active.txc ≠ .idle) ∧
    (base.configured = true ∧ base.txc = .idle ∧ base.respAvail = false) := by decide +kernel

/-- VX2: the first instant at which silence has elapsed. -/
theorem witness_SilenceEnablesTheDriver : ∃ s : State, s.txc = .waitSilence ∧
    s.t35.num ≤ (s.nowUs - s.tLastUs) * s.t35.den ∧ s.dePresent = true :=
  ⟨{ waitingSend with nowUs := 4746, dePresent := true }, rfl, by decide +kernel, rfl⟩

theorem witness_HandOffCompletesTheSend :
    (∃ (s : State) (who : Starter), s.starter = some who ∧ s.len ≤ s.params.capacity ∧
      s.txc = .waitSilence ∧ s.dePresent = false ∧ s.t35.num ≤ (s.nowUs - s.tLastUs) * s.t35.den) ∧
    ∃ (s : State) (who : Starter), s.starter = some who ∧ s.len ≤ s.params.capacity ∧
      s.txc = .deSettle ∧ s.params.deSettleUs ≤ s.nowUs - s.tDeUs :=
  ⟨⟨{ waitingSend with nowUs := 4746 }, .sendErr, rfl, by decide +kernel, rfl, rfl, by decide +kernel⟩,
    { settlingSend with nowUs := 4796 }, .sendErr, rfl, by decide +kernel, rfl, by decide +kernel⟩

/-! #### The invariant -/

theorem inv_base : Inv base := by
  constructor <;> first | decide +kernel | simp [base, State.reset]

theorem inv_waitingSend : Inv waitingSend := by
  constructor <;> first | decide +kernel | simp [waitingSend, holding, base, State.reset]

theorem inv_settlingSend : Inv settlingSend := by
  constructor <;> first | decide +kernel | simp [settlingSend, waitingSend, holding, base, State.reset]

theorem inv_active : Inv active := by
  constructor <;> first | decide +kernel | simp [active, base, State.reset]

theorem inv_complete_own8 : Inv (complete base own8) := by
  constructor <;> first | decide +kernel | simp [complete, holding, base, State.reset]

/-- A full buffer whose frame overflowed, all of it written. -/
theorem inv_overflowed : Inv { complete base own8 with params := ⟨8, 1000, 50⟩, overflow := true } := by
  constructor <;> first | decide +kernel | exact fun _ => .inl rfl | simp [complete, holding, base, State.reset]

/-- A full buffer of 50 whose frame overflowed. -/
def overflowed50 : State := { holding base (List.replicate 50 0#8) with overflow := true }

theorem inv_overflowed50 : Inv overflowed50 := by
  constructor <;> first | decide +kernel | exact fun _ => .inl rfl | simp [overflowed50, holding, base, State.reset]

/-- A command that comes next changes nothing the invariant speaks of. -/
theorem inv_given {s : State} (h : Inv s) (w : CmdWord) : Inv (given s w) := by
  cases h
  constructor <;> first | assumption | simp [given, Input.wf]

/-- An available response. -/
theorem inv_response : Inv { holding base rsp13 with respAvail := true } := by
  constructor <;> first | decide +kernel | simp [holding, base, State.reset]

/-- Both waits, with nothing and with a command next. -/
theorem witness_EverySendReachesItsHandOff :
    (Inv waitingSend ∧ waitingSend.waiting = true ∧ waitingSend.noEventNext) ∧
    (Inv settlingSend ∧ settlingSend.waiting = true ∧ settlingSend.noEventNext) ∧ (polled waitingSend).noEventNext :=
  ⟨⟨inv_waitingSend, by decide +kernel, .inl rfl⟩, ⟨inv_settlingSend, by decide +kernel, .inl rfl⟩,
    .inr ⟨_, _, _, rfl⟩⟩

/-- Each send is started by its command, the POLL's by the POLL that completes the frame (VS2, VS8, T7, VV10). -/
theorem test_send_starts :
    (nextOf (step (given base 0x3060100000000000#64))).starter = some .sendErr ∧
    (nextOf (step (given base 0x4030400020000000#64))).starter = some .sendRsp ∧
    (nextOf (step (given base 0x5020300000004000#64))).starter = some .mread ∧
    (nextOf (step (polled (complete base other8)))).starter = some .poll := by decide +kernel

/-- Every transition of the table is taken by some step. -/
theorem witness_ControllerMovesAsTheTableSays :
    (∃ s t, step s = .next t ∧ s.txc = .idle ∧ t.txc = .waitSilence) ∧
    (∃ s t, step s = .next t ∧ s.txc = .waitSilence ∧ t.txc = .active) ∧
    (∃ s t, step s = .next t ∧ s.txc = .waitSilence ∧ t.txc = .deSettle) ∧
    (∃ s t, step s = .next t ∧ s.txc = .deSettle ∧ t.txc = .active) ∧
    (∃ s t, step s = .next t ∧ s.txc = .active ∧ t.txc = .idle ∧ s.txComplete = true) ∧
    ∃ s t, step s = .next t ∧ s.txc = .active ∧ t.txc = .idle ∧ s.txComplete = false := by
  refine ⟨⟨given base 0x3030200000000000#64, _, eq_next (by decide +kernel), rfl, by decide +kernel⟩,
    ⟨{ waitingSend with nowUs := 4746 }, _, eq_next (by decide +kernel), rfl, by decide +kernel⟩,
    ⟨{ waitingSend with nowUs := 4746, dePresent := true }, _, eq_next (by decide +kernel), rfl, by decide +kernel⟩,
    ⟨{ settlingSend with nowUs := 4796 }, _, eq_next (by decide +kernel), rfl, by decide +kernel⟩,
    ⟨{ polled active with txComplete := true, txBusy := false }, _, eq_next (by decide +kernel), rfl, by decide +kernel, rfl⟩,
    { active with inputs := [.reset [] 0] }, _, eq_next (by decide +kernel), rfl, by decide +kernel, rfl⟩

/-- A POLL and a TX_DONE while the transmission is in progress; a run with the POLL and three steps of time. -/
theorem witness_UnfinishedTransmissionBlocks :
    (active.configured = true ∧ active.txc = .active ∧ active.txComplete = false) ∧
    (∃ t, step (polled active) = .next t ∧ ¬ (polled active).headIsReset) ∧
    (∃ t, step { active with inputs := [.txDone] } = .next t ∧ t.txComplete = true) ∧
    (∀ e ∈ (polled active).inputs, e ≠ .txDone ∧ ∀ fifo now, e ≠ .reset fifo now) ∧
    ∃ t, core.run 4 (polled active) = .next t := by
  refine ⟨⟨rfl, rfl, rfl⟩, ⟨_, eq_next (by decide +kernel), fun ⟨_, _, _, h⟩ => by cases h⟩,
    ⟨_, eq_next (by decide +kernel), by decide +kernel⟩, ?_, _, eq_next (by decide +kernel)⟩
  intro e he
  rw [List.mem_singleton.1 he]
  exact ⟨by simp, fun _ _ => by simp⟩

/-- Between commands and inside a wait. -/
theorem witness_EventsChangeOnlyTheTransport :
    (({ base with inputs := [.rxByte 1#8] } : State).microStep = none ∧ base.txBusy = false ∧ active.txBusy = true) ∧
    ({ active with inputs := [.txDone] } : State).microStep.isNone = true ∧
    ({ waitingSend with inputs := [.tick 1] } : State).microStep.isNone = true := by
  refine ⟨⟨rfl, rfl, rfl⟩, by decide +kernel, by decide +kernel⟩

theorem witness_ResetLeavesTheBlockQuiescent : ∃ s : State, s.microStep = none ∧ s.inputs = [.reset [1#8] 7] :=
  ⟨{ active with inputs := [.reset [1#8] 7] }, rfl, rfl⟩

/-- Idle, receiving, waiting, settling, active and answered states meet the invariant, and a step is taken from one. -/
theorem witness_EveryStepKeepsTheInvariant : Inv base ∧ Inv (complete base own8) ∧ Inv waitingSend ∧ Inv settlingSend ∧
    Inv active ∧ Inv { holding base rsp13 with respAvail := true } ∧ ∃ t, step settlingSend = .next t :=
  ⟨inv_base, inv_complete_own8, inv_waitingSend, inv_settlingSend, inv_active, inv_response, _, eq_next (by decide +kernel)⟩

theorem witness_NoStepFaults : Inv base ∧ Inv { complete base own8 with params := ⟨8, 1000, 50⟩, overflow := true } :=
  ⟨inv_base, inv_overflowed⟩

theorem witness_PrintedOverflowInvariantIsBrokenByASend :
    Starter.sendErr ≠ .poll ∧ Starter.sendRsp ≠ .poll ∧ Starter.mread ≠ .poll := by decide

/-- A step that keeps the printed invariant with the flag set, and the step that does not. -/
theorem witness_OnlyASendBreaksThePrintedOverflowInvariant :
    (Inv (given overflowed50 0x2000000000000000#64) ∧ overflowed50.len = overflowed50.params.capacity ∧
      ∃ t, step (given overflowed50 0x2000000000000000#64) = .next t ∧ t.overflow = true) ∧
    Inv (given overflowed50 0x3030200000000000#64) ∧
      ∃ t, step (given overflowed50 0x3030200000000000#64) = .next t ∧ t.overflow = true ∧ t.len ≠ t.params.capacity :=
  ⟨⟨inv_given inv_overflowed50 _, rfl, _, eq_next (by decide +kernel), by decide +kernel⟩,
    inv_given inv_overflowed50 _, _, eq_next (by decide +kernel), by decide +kernel, by decide +kernel⟩

/-- A POLL that leaves the flag, and a POLL that begins a frame and clears it (VA2). -/
theorem witness_OverflowIsReadOnlyWhileReceiving :
    overflowed50.rxActive = false ∧ (nextOf (step (polled overflowed50))).overflow = true ∧
    (nextOf (step { polled overflowed50 with rxFifo := [5#8] })).overflow = false := by decide +kernel

theorem witness_OnlyFrameReceivedWritesTheResultRegisters :
    (∃ s t, step s = .next t ∧ t.outStart ≠ s.outStart ∧ s.headIsPoll) ∧
    ∃ s t, step s = .next t ∧ t.outFunc ≠ s.outFunc ∧ s.headIsReset :=
  ⟨⟨polled (complete base own8), _, eq_next (by decide +kernel), by decide +kernel, _, _, rfl⟩,
    { base with outFunc := 3#8, inputs := [.reset [] 0] }, _, eq_next (by decide +kernel), by decide +kernel, _, _, _, rfl⟩

/-- The four causes of R30, CONFIG and reset each clear a marker. -/
theorem witness_MarkerIsClearedByItsCausesOnly :
    ∀ s ∈ [polled { awaiting with nowUs := 1005000 }, polled (complete awaiting (rsp7.take 6)),
        polled (complete awaiting (rsp7.take 6 ++ [0x34#8])), polled (complete awaiting rsp7),
        given awaiting 0x1000025800580000#64, { awaiting with inputs := [.reset [] 0] }],
      step s = .next (nextOf (step s)) ∧ s.awaitValid = true ∧ (nextOf (step s)).awaitValid = false := by
  intro s hs
  have h : isNext (step s) = true ∧ s.awaitValid = true ∧ (nextOf (step s)).awaitValid = false := by
    revert s; decide +kernel
  exact ⟨eq_next h.1, h.2⟩

/-- The driver rises, falls in the POLL that sees completion, and falls by reset. -/
theorem witness_DriverEnableFollowsTheTransmission :
    ∀ s ∈ [{ waitingSend with nowUs := 4746, dePresent := true },
        polled { active with de := true, dePresent := true, txBusy := false, txComplete := true },
        { active with de := true, dePresent := true, inputs := [.reset [] 0] }],
      step s = .next (nextOf (step s)) ∧ (nextOf (step s)).de ≠ s.de := by
  intro s hs
  have h : isNext (step s) = true ∧ (nextOf (step s)).de ≠ s.de := by revert s; decide +kernel
  exact ⟨eq_next h.1, h.2⟩

theorem witness_ClockNeverRunsBackwards : (∃ t, exec .poll base = .next t) ∧
    ∃ t, step (polled base) = .next t ∧ ¬ (polled base).headIsReset :=
  ⟨⟨_, eq_next (by decide +kernel)⟩, _, eq_next (by decide +kernel), fun ⟨_, _, _, h⟩ => by cases h⟩

theorem witness_FailingCommandHasNoEffect : ∃ t, exec (.sendErr 3#8 3#8) { base with rspOk := true } = .next t ∧
    t.rspOk = false := ⟨_, eq_next (by decide +kernel), by decide +kernel⟩

theorem witness_HostMemoryAndParametersAreKept :
    (∃ s t, step s = .next t ∧ t.dst ≠ s.dst) ∧ ∃ s t, step s = .next t ∧ t.pl ≠ s.pl :=
  ⟨⟨given { holding base rsp13 with respAvail := true } 0x6000800000000000#64, _, eq_next (by decide +kernel),
      by decide +kernel⟩,
    { base with inputs := [.command 0x2000000000000000#64 [(0, 1#8)]] }, _, eq_next (by decide +kernel), by decide +kernel⟩

/-- Two buffers that differ at index `len` and nowhere before it. -/
theorem witness_StaleBufferBytesAreNeverRead : Inv { holding base rsp13 with respAvail := true } ∧
    (∀ i, i < (holding base rsp13).len →
      Memory.read? (memOf (rsp13 ++ [0xFF#8])) i = (holding base rsp13).buf.read? i) ∧
    memOf (rsp13 ++ [0xFF#8]) ≠ (holding base rsp13).buf :=
  ⟨inv_response, by decide +kernel, by decide +kernel⟩

end Sys2Proof.Tests
end

section
/-!
Durations (10_state.md R44, R45): the comparison by cross-multiplication is the comparison of rational numbers.
-/

namespace Sys2Proof.Machine

/-- The rational number of microseconds that a duration stands for. -/
def Duration.toRat (d : Duration) : ℚ := d.num / d.den

theorem Duration.toRat_nonneg (d : Duration) : 0 ≤ d.toRat := div_nonneg d.num.cast_nonneg d.den.cast_nonneg

theorem Duration.notElapsed_iff_lt_toRat {d : Duration} (hd : 0 < d.den) (e : Nat) :
    d.notElapsed e = true ↔ (e : ℚ) < d.toRat := by
  have hq : (0 : ℚ) < d.den := Nat.cast_pos.2 hd
  rw [Duration.notElapsed, decide_eq_true_iff, Duration.toRat, lt_div_iff₀ hq]
  exact_mod_cast Iff.rfl

theorem Duration.notElapsed_iff_lt_ceil {d : Duration} (hd : 0 < d.den) (e : Nat) :
    d.notElapsed e = true ↔ e < ⌈d.toRat⌉₊ := by
  rw [Duration.notElapsed_iff_lt_toRat hd, Nat.lt_ceil]

/-- The floor of a duration that is not whole lies strictly below it. -/
theorem Duration.notElapsed_floor {d : Duration} (hd : 0 < d.den) (h : (⌊d.toRat⌋₊ : ℚ) ≠ d.toRat) :
    d.notElapsed ⌊d.toRat⌋₊ = true :=
  (Duration.notElapsed_iff_lt_toRat hd _).2 (lt_of_le_of_ne (Nat.floor_le d.toRat_nonneg) h)

theorem durationT15_den_pos {baud : BitVec 32} (h : baud ≠ 0#32) : 0 < (durationT15 baud).den := by
  unfold durationT15
  split_ifs
  · exact BitVec.toNat_pos_of_ne_zero h
  · exact Nat.one_pos

theorem durationT35_den_pos {baud : BitVec 32} (h : baud ≠ 0#32) : 0 < (durationT35 baud).den := by
  unfold durationT35
  split_ifs
  · exact BitVec.toNat_pos_of_ne_zero h
  · exact Nat.one_pos

theorem durationT15_toRat (baud : BitVec 32) :
    (durationT15 baud).toRat = if baud.toNat ≤ 19200 then 15000000 / (baud.toNat : ℚ) else 750 := by
  by_cases h : baud.toNat ≤ 19200
  · simp [Duration.toRat, durationT15, Config.baudKnee, Config.k15, h]
  · simp [Duration.toRat, durationT15, Config.baudKnee, Config.t15FloorUs, h]

theorem durationT35_toRat (baud : BitVec 32) :
    (durationT35 baud).toRat = if baud.toNat ≤ 19200 then 35000000 / (baud.toNat : ℚ) else 1750 := by
  by_cases h : baud.toNat ≤ 19200
  · simp [Duration.toRat, durationT35, Config.baudKnee, Config.k35, h]
  · simp [Duration.toRat, durationT35, Config.baudKnee, Config.t35FloorUs, h]

/-- Settles O11: both durations are rationals with a positive denominator, and a natural number is below such a rational
exactly when it is below its ceiling. -/
theorem durationsCompareExactly : Obligations.DurationsCompareExactly := by
  unfold Obligations.DurationsCompareExactly
  intro baud e hb
  have h15 := durationT15_den_pos hb
  have h35 := durationT35_den_pos hb
  simp only [← durationT15_toRat, ← durationT35_toRat]
  exact ⟨Duration.notElapsed_iff_lt_toRat h15 e, Duration.notElapsed_iff_lt_toRat h35 e,
    Duration.notElapsed_iff_lt_ceil h15 e, Duration.notElapsed_iff_lt_ceil h35 e,
    Duration.notElapsed_floor h15, Duration.notElapsed_floor h35⟩

end Sys2Proof.Machine
end

section
/-!
The printed invariant (I-d) of 10_state.md R33, "`overflow = 1` implies `len = C`" (log entry 13): every step but an accepted
send keeps it, and each of the three sends breaks it.
-/

namespace Sys2Proof.Machine

variable {s t : State}

/-- R33 (I-d) as printed. -/
def State.overflowMeansFull (s : State) : Prop := s.overflow = true → s.len = s.params.capacity

theorem State.overflowMeansFull_of_clear (h : s.overflow = false) : s.overflowMeansFull := by
  intro ho
  rw [h] at ho
  cases ho

/-- Draining sets the flag only when a byte found no room, and then `buf` is full. -/
theorem State.drain_overflowMeansFull (hl : s.len ≤ s.params.capacity) (hs : s.overflowMeansFull) (bs : List Byte) :
    (s.drain bs).overflowMeansFull := by
  unfold State.overflowMeansFull
  rw [State.drain_eq s bs hl]
  simp only [Bool.or_eq_true, decide_eq_true_eq, List.length_take]
  rintro (ho | hroom)
  · have := hs ho
    omega
  · omega

theorem State.pollReceive_overflowMeansFull (hl : s.len ≤ s.params.capacity) (hs : s.overflowMeansFull) :
    s.pollReceive.overflowMeansFull := by
  cases hrx : s.rxActive with
  | true =>
    have h := State.drain_overflowMeansFull hl hs s.rxFifo
    simp only [State.pollReceive, hrx, if_true]
    exact h
  | false =>
    have h := State.drain_overflowMeansFull (s := s.beginFrame) (Nat.zero_le _)
      (State.overflowMeansFull_of_clear rfl) s.rxFifo
    simp only [State.pollReceive, hrx, Bool.false_eq_true, if_false]
    exact h

theorem State.pollSending_overflowMeansFull (hs : s.overflowMeansFull) : s.pollSending.overflowMeansFull := by
  unfold State.pollSending
  split_ifs <;> exact hs

theorem State.dispatchFrame_overflow (h : s.dispatchFrame = .next t) : t.overflow = s.overflow := by
  obtain ⟨-, -, -, f, rfl⟩ | ⟨-, -, -, -, -, rfl⟩ | ⟨-, -, rfl⟩ | ⟨-, -, rfl⟩ | rfl := State.dispatchFrame_next h <;> rfl

/-- The validator never writes the flag, not even in the automatic error response. -/
theorem State.validate_overflow (h : s.validate = .next t) : t.overflow = s.overflow := by
  obtain ⟨-, rfl⟩ | ⟨-, -, -, rfl⟩ | ⟨-, -, -, h⟩ := State.validate_next h
  · rfl
  · rfl
  · exact State.dispatchFrame_overflow h

theorem execPoll_overflowMeansFull (hl : s.len ≤ s.params.capacity) (hs : s.overflowMeansFull)
    (h : execPoll s = .next t) : t.overflowMeansFull := by
  obtain ⟨-, ⟨-, rfl⟩ | ⟨-, -, rfl⟩ | ⟨-, -, -, -, rfl⟩ | ⟨-, -, -, -, -, rfl⟩ | ⟨-, -, -, -, -, -, rfl⟩ |
    ⟨-, -, -, -, -, hclear, hv⟩ | ⟨-, -, -, rfl⟩⟩ := execPoll_next h
  · exact State.pollSending_overflowMeansFull hs
  · exact hs
  · exact hs
  · exact hs
  · exact hs
  · exact State.overflowMeansFull_of_clear ((State.validate_overflow hv).trans hclear)
  · exact State.pollReceive_overflowMeansFull hl hs

theorem State.handOff_overflowMeansFull (hs : s.overflowMeansFull) (h : s.handOff = .next t) : t.overflowMeansFull := by
  rw [State.handOff_frame h]
  exact hs

theorem State.microStep_overflowMeansFull (hs : s.overflowMeansFull) (h : s.microStep = some (.next t)) :
    t.overflowMeansFull := by
  obtain ⟨-, -, -, hr⟩ | ⟨-, -, -, hr⟩ | ⟨-, -, hr⟩ := State.microStep_some h
  · cases hr
    exact hs
  · exact State.handOff_overflowMeansFull hs hr.symm
  · exact State.handOff_overflowMeansFull hs hr.symm

theorem State.runEvent_overflowMeansFull {e : Input} (hs : s.overflowMeansFull) (h : s.runEvent e = .next t) :
    t.overflowMeansFull := by
  obtain ⟨b, -, rfl⟩ | ⟨-, -, rfl⟩ | ⟨d, -, -, rfl⟩ | ⟨fifo, now, -, rfl⟩ | ⟨w, p, -, rfl⟩ := State.runEvent_next h
  · exact hs
  · exact hs
  · exact hs
  · exact State.overflowMeansFull_of_clear rfl
  · exact hs

/-- The step accepts a SEND_ERR, a SEND_RSP or an MREAD. -/
def State.startsSend (s t : State) : Prop :=
  s.txc = .idle ∧ ∃ who, who ≠ .poll ∧ s.headSends who ∧ t.starter = some who

/-- An accepted command keeps the printed invariant, or it is one of the three sends and has started. -/
theorem State.command_overflowMeansFull {w : CmdWord} {payload : Memory} {rest : List Input}
    (hl : s.len ≤ s.params.capacity) (hs : s.overflowMeansFull) (hin : s.inputs = .command w payload :: rest)
    (h : exec (decodeCommand w) (s.accepted payload rest) = .next t) : t.overflowMeansFull ∨ s.startsSend t := by
  have ha : (s.accepted payload rest).overflowMeansFull := hs
  have head : ∀ i, decodeCommand w = i → s.headDecodesTo i := fun i hi => ⟨w, payload, rest, hin, hi⟩
  obtain ⟨b, a, d, hw⟩ | ⟨-, hw⟩ | ⟨fc, k, hw⟩ | ⟨fc, l, o, hw⟩ | ⟨n, fc, st, c, hw⟩ | ⟨n, hw⟩ | ⟨n, hw⟩ | hw :=
    decodeCommand_cases w <;> rw [hw] at h
  · obtain ⟨-, -, rfl⟩ := execConfig_next h
    exact .inl (State.overflowMeansFull_of_clear rfl)
  · exact .inl (execPoll_overflowMeansFull (s := s.accepted payload rest) hl ha h)
  · obtain ⟨-, rfl | ⟨hidle, -, -, x, rfl⟩⟩ := execSendErr_next h
    · exact .inl ha
    · exact .inr ⟨hidle, .sendErr, by decide, ⟨fc, k, head _ hw⟩, rfl⟩
  · obtain ⟨-, rfl | ⟨hidle, -, -, rfl⟩⟩ := execSendRsp_next h
    · exact .inl ha
    · exact .inr ⟨hidle, .sendRsp, by decide, ⟨fc, l, o, head _ hw⟩, rfl⟩
  · obtain ⟨-, rfl | ⟨hidle, -, -, rfl⟩⟩ := execMread_next h
    · exact .inl ha
    · exact .inr ⟨hidle, .mread, by decide, ⟨n, fc, st, c, head _ hw⟩, rfl⟩
  · obtain ⟨-, -, rfl | ⟨-, -, -, rfl⟩⟩ := execMfetch_next h
    · exact .inl ha
    · exact .inl ha
  · obtain ⟨-, -, -, -, rfl⟩ := execCrc_next h
    exact .inl ha
  · cases h
    exact .inl ha

/-- Settles O55, by the kinds of step: only an accepted command can leave the printed invariant, and only as a send. -/
theorem onlyASendBreaksThePrintedOverflowInvariant : Obligations.OnlyASendBreaksThePrintedOverflowInvariant := by
  unfold Obligations.OnlyASendBreaksThePrintedOverflowInvariant
  intro s t hinv hs h
  obtain ⟨r, hm, hr⟩ | ⟨-, w, payload, rest, hin, -, hr⟩ | ⟨-, e, rest, -, -, hr⟩ | ⟨-, -, hr⟩ := step_cases s <;>
    rw [h] at hr
  · exact .inl (State.microStep_overflowMeansFull hs (hm.trans (congrArg some hr.symm)))
  · exact State.command_overflowMeansFull hinv.lenBound hs hin hr.symm
  · exact .inl (State.runEvent_overflowMeansFull (s := { s with inputs := rest }) hs hr.symm)
  · cases hr
    exact .inl hs

/-- After the overflowed frame of a full buffer of 50, a command word that starts a send of another length breaks the printed
invariant. -/
theorem send_breaks_overflowMeansFull {who : Starter} (w : CmdWord)
    (hsends : (Tests.given Tests.overflowed50 w).headSends who)
    (hnext : Tests.isNext (step (Tests.given Tests.overflowed50 w)) = true)
    (hafter : let t := Tests.nextOf (step (Tests.given Tests.overflowed50 w))
      t.starter = some who ∧ t.overflow = true ∧ t.len ≠ t.params.capacity) :
    ∃ s t : State, Inv s ∧ (s.overflow = true → s.len = s.params.capacity) ∧
      s.txc = .idle ∧ s.headSends who ∧ step s = .next t ∧ t.starter = some who ∧
      t.overflow = true ∧ t.len ≠ t.params.capacity :=
  ⟨_, _, Tests.inv_given Tests.inv_overflowed50 w, fun _ => rfl, rfl, hsends, Tests.eq_next hnext, hafter⟩

/-- Settles O46: the words of `SEND_ERR 3, 2`, `SEND_RSP 3, 4, 2` and `MREAD 2, 3, 0, 4` build frames of 5, 9 and 8 bytes in
a buffer of 50. -/
theorem printedOverflowInvariantIsBrokenByASend : Obligations.PrintedOverflowInvariantIsBrokenByASend := by
  unfold Obligations.PrintedOverflowInvariantIsBrokenByASend
  intro who hwho
  cases who with
  | sendErr =>
    exact send_breaks_overflowMeansFull 0x3030200000000000#64 ⟨3#8, 2#8, _, _, _, rfl, by decide⟩
      (by decide +kernel) (by decide +kernel)
  | sendRsp =>
    exact send_breaks_overflowMeansFull 0x4030400020000000#64 ⟨3#8, 4#8, 2#16, _, _, _, rfl, by decide⟩
      (by decide +kernel) (by decide +kernel)
  | mread =>
    exact send_breaks_overflowMeansFull 0x5020300000004000#64 ⟨2#8, 3#8, 0#16, 4#16, _, _, _, rfl, by decide⟩
      (by decide +kernel) (by decide +kernel)
  | poll => exact absurd rfl hwho

end Sys2Proof.Machine
end

section
/-!
Two runs of the machine side by side: outcomes that are related when their next states are, and the rules of the model's
branches for them.
-/

namespace Sys2Proof.Machine

/-- The same kind of outcome: next states in the relation `R`, or the same fault or the same refusal. -/
inductive Result.Rel (R : State → State → Prop) : Result → Result → Prop
  | next {t t' : State} (h : R t t') : Result.Rel R (.next t) (.next t')
  | fault (f : Fault) : Result.Rel R (.fault f) (.fault f)
  | refused (r : Refusal) : Result.Rel R (.refused r) (.refused r)

variable {R : State → State → Prop}

/-- A branch on one condition in both runs. -/
theorem Result.Rel.ite {c : Prop} [Decidable c] {p q p' q' : Result} (ht : c → Result.Rel R p p')
    (he : ¬ c → Result.Rel R q q') : Result.Rel R (if c then p else q) (if c then p' else q') := by
  by_cases h : c
  · rw [if_pos h, if_pos h]
    exact ht h
  · rw [if_neg h, if_neg h]
    exact he h

theorem Result.Rel.guardBuf {s s' : State} {n : Nat} {k k' : Result} (hp : s'.params = s.params)
    (h : Result.Rel R k k') : Result.Rel R (s.guardBuf n k) (s'.guardBuf n k') := by
  unfold State.guardBuf
  rw [hp]
  exact .ite (fun _ => h) (fun _ => .fault _)

end Sys2Proof.Machine
end

section
/-!
The overflow flag is read of a frame being received only (10_state.md R29): two states that differ in the flag alone, while
no frame is being received, take the same step.
-/

namespace Sys2Proof.Machine

/-- A state with another value of the overflow flag. -/
def State.withOverflow (s : State) (b : Bool) : State := { s with overflow := b }

section
variable (s : State) (b : Bool)

@[simp] theorem State.withOverflow_txc : (s.withOverflow b).txc = s.txc := rfl
@[simp] theorem State.withOverflow_rxActive : (s.withOverflow b).rxActive = s.rxActive := rfl
@[simp] theorem State.withOverflow_dePresent : (s.withOverflow b).dePresent = s.dePresent := rfl
@[simp] theorem State.withOverflow_txComplete : (s.withOverflow b).txComplete = s.txComplete := rfl
@[simp] theorem State.withOverflow_starter : (s.withOverflow b).starter = s.starter := rfl
@[simp] theorem State.withOverflow_rxFifo : (s.withOverflow b).rxFifo = s.rxFifo := rfl
@[simp] theorem State.withOverflow_withinT35 : (s.withOverflow b).withinT35 = s.withinT35 := rfl
@[simp] theorem State.withOverflow_settling : (s.withOverflow b).settling = s.settling := rfl
@[simp] theorem State.withOverflow_turn : (s.withOverflow b).turn = s.turn := rfl
/-- The first byte of a new frame clears the flag. -/
@[simp] theorem State.withOverflow_beginFrame : (s.withOverflow b).beginFrame = s.beginFrame := rfl

end

/-- The next states of two runs that differ in the flag: the flag was overwritten, or it is still not being read. -/
def OverflowUnread (b : Bool) (t t' : State) : Prop :=
  t' = t ∨ (t.rxActive = false ∧ t' = t.withOverflow b)

variable {s : State} {b : Bool}

/-- The flag was overwritten. -/
theorem OverflowUnread.same (t : State) : OverflowUnread b t t := .inl rfl

/-- The flag is kept, and no frame is being received. -/
theorem OverflowUnread.kept {t : State} (h : t.rxActive = false) : OverflowUnread b t (t.withOverflow b) := .inr ⟨h, rfl⟩

/-! ### Operations that carry the flag along, or overwrite it -/

theorem State.pollSending_withOverflow : (s.withOverflow b).pollSending = s.pollSending.withOverflow b := by
  unfold State.pollSending
  rw [State.withOverflow_txComplete, State.withOverflow_dePresent]
  split_ifs <;> rfl

theorem State.pollSending_rxActive : s.pollSending.rxActive = s.rxActive := by
  unfold State.pollSending
  split_ifs <;> rfl

/-- A POLL that begins a frame forgets the flag of the frame before. -/
theorem State.pollReceive_withOverflow (h : s.rxActive = false) : (s.withOverflow b).pollReceive = s.pollReceive := by
  simp [State.pollReceive, h]

theorem State.returnStarter_withOverflow : (s.withOverflow b).returnStarter = s.returnStarter.withOverflow b := by
  unfold State.returnStarter
  rw [State.withOverflow_starter]
  split <;> rfl

theorem State.returnStarter_rxActive : s.returnStarter.rxActive = s.rxActive := by
  unfold State.returnStarter
  split <;> rfl

/-! ### The commands -/

/-- Building and starting a frame keeps the flag. -/
theorem State.sendFrame_overflowUnread (h : s.rxActive = false) (who : Starter) (body : List Byte) :
    Result.Rel (OverflowUnread b) (s.sendFrame who body) ((s.withOverflow b).sendFrame who body) :=
  .guardBuf rfl (.next (.kept h))

/-- A POLL that begins a frame clears the flag; every other one leaves it. -/
theorem execPoll_overflowUnread (h : s.rxActive = false) :
    Result.Rel (OverflowUnread b) (execPoll s) (execPoll (s.withOverflow b)) := by
  refine .ite (fun _ => .refused _) fun _ => .ite (fun _ => ?sending) fun _ => .ite (fun _ => .next (.kept h)) fun _ =>
    .ite (fun _ => ?silent) fun _ => ?receive
  case sending =>
    rw [State.pollSending_withOverflow]
    exact .next (.kept (State.pollSending_rxActive.trans h))
  case silent =>
    exact .ite (fun _ => .next (.kept h)) fun hrx => absurd h hrx
  case receive =>
    rw [State.pollReceive_withOverflow h]
    exact .next (.same _)

theorem State.slavePrecheck_overflowUnread (h : s.rxActive = false) {k k' : Result}
    (hk : Result.Rel (OverflowUnread b) k k') :
    Result.Rel (OverflowUnread b) (s.slavePrecheck k) ((s.withOverflow b).slavePrecheck k') :=
  .ite (fun _ => .refused _) fun _ => .ite (fun _ => .next (.kept h)) fun _ => .ite (fun _ => .refused _) fun _ => hk

theorem execSendErr_overflowUnread (h : s.rxActive = false) (fc kind : Byte) :
    Result.Rel (OverflowUnread b) (execSendErr fc kind s) (execSendErr fc kind (s.withOverflow b)) := by
  refine State.slavePrecheck_overflowUnread h ?_
  cases exceptionByte kind with
  | none => exact .next (.kept h)
  | some x => exact State.sendFrame_overflowUnread (s := s.setRespAvail false) h .sendErr _

theorem execSendRsp_overflowUnread (h : s.rxActive = false) (fc length : Byte) (offset : Word16) :
    Result.Rel (OverflowUnread b) (execSendRsp fc length offset s) (execSendRsp fc length offset (s.withOverflow b)) :=
  State.slavePrecheck_overflowUnread h <| .ite (fun _ => .next (.kept h)) fun _ => .ite (fun _ => .next (.kept h)) fun _ =>
    State.sendFrame_overflowUnread (s := s.draw.setRespAvail false) h .sendRsp _

theorem execMread_overflowUnread (h : s.rxActive = false) (node fc : Byte) (start count : Word16) :
    Result.Rel (OverflowUnread b) (execMread node fc start count s) (execMread node fc start count (s.withOverflow b)) :=
  .ite (fun _ => .refused _) fun _ => .ite (fun _ => .next (.kept h)) fun _ =>
    State.sendFrame_overflowUnread (s := s.rxFlush.setMarker node) h .mread _

theorem execMfetch_overflowUnread (h : s.rxActive = false) (n : Word16) :
    Result.Rel (OverflowUnread b) (execMfetch n s) (execMfetch n (s.withOverflow b)) :=
  .ite (fun _ => .refused _) fun _ => .ite (fun _ => .refused _) fun _ => .ite (fun _ => .next (.kept h)) fun _ =>
    .guardBuf rfl <| .ite (fun _ => .next (.kept h)) fun _ => .next (.kept h)

theorem execCrc_overflowUnread (h : s.rxActive = false) (n : Word16) :
    Result.Rel (OverflowUnread b) (execCrc n s) (execCrc n (s.withOverflow b)) :=
  .ite (fun _ => .refused _) fun _ => .ite (fun _ => .refused _) fun _ => .ite (fun _ => .refused _) fun _ =>
    .guardBuf rfl (.next (.kept h))

/-- CONFIG clears the flag. -/
theorem execConfig_overflowUnread (baud : BitVec 32) (addr : Byte) (dePresent : Bool) :
    Result.Rel (OverflowUnread b) (execConfig baud addr dePresent s) (execConfig baud addr dePresent (s.withOverflow b)) :=
  .ite (fun _ => .refused _) fun _ => .ite (fun _ => .refused _) fun _ => .next (.same _)

theorem exec_decodeCommand_overflowUnread (h : s.rxActive = false) (w : CmdWord) :
    Result.Rel (OverflowUnread b) (exec (decodeCommand w) s) (exec (decodeCommand w) (s.withOverflow b)) := by
  obtain ⟨baud, a, d, hw⟩ | ⟨-, hw⟩ | ⟨fc, k, hw⟩ | ⟨fc, l, o, hw⟩ | ⟨n, fc, st, c, hw⟩ | ⟨n, hw⟩ | ⟨n, hw⟩ | hw :=
    decodeCommand_cases w <;> rw [hw]
  · exact execConfig_overflowUnread baud a d
  · exact execPoll_overflowUnread h
  · exact execSendErr_overflowUnread h fc k
  · exact execSendRsp_overflowUnread h fc l o
  · exact execMread_overflowUnread h n fc st c
  · exact execMfetch_overflowUnread h n
  · exact execCrc_overflowUnread h n
  · exact .next (.kept h)

/-! ### The other kinds of step -/

/-- The hand-off reads the frame, never the flag. -/
theorem State.handOff_overflowUnread (h : s.rxActive = false) :
    Result.Rel (OverflowUnread b) s.handOff (s.withOverflow b).handOff := by
  refine .guardBuf rfl (.next (.inr ⟨State.returnStarter_rxActive.trans h, ?_⟩))
  exact congrArg (fun u : State => { u with starter := none })
    (State.returnStarter_withOverflow (s := (s.txWrite (s.bufBytes 0 s.len)).setTxc .active))

theorem State.microStep_overflowUnread (h : s.rxActive = false) :
    Option.Rel (Result.Rel (OverflowUnread b)) s.microStep (s.withOverflow b).microStep := by
  unfold State.microStep
  rw [State.withOverflow_txc, State.withOverflow_withinT35, State.withOverflow_settling, State.withOverflow_dePresent]
  cases s.txc with
  | idle => exact .none
  | active => exact .none
  | waitSilence =>
    dsimp only
    split_ifs
    · exact .none
    · exact .some (.next (.kept h))
    · exact .some (State.handOff_overflowUnread h)
  | deSettle =>
    dsimp only
    split_ifs
    · exact .none
    · exact .some (State.handOff_overflowUnread h)

theorem State.runEvent_overflowUnread (h : s.rxActive = false) (e : Input) :
    Result.Rel (OverflowUnread b) (s.runEvent e) ((s.withOverflow b).runEvent e) := by
  cases e with
  | command w payload => exact .next (.kept h)
  | rxByte x => exact .next (.kept h)
  | txDone => exact .ite (fun _ => .next (.kept h)) fun _ => .refused _
  | tick d => exact .ite (fun _ => .refused _) fun _ => .next (.kept h)
  | reset fifo now => exact .next (.same _)

theorem step_overflowUnread (h : s.rxActive = false) :
    Result.Rel (OverflowUnread b) (step s) (step (s.withOverflow b)) := by
  have hm := State.microStep_overflowUnread (b := b) h
  unfold step
  rw [State.withOverflow_turn]
  generalize s.microStep = m, (s.withOverflow b).microStep = m' at hm
  cases hm with
  | some hr => exact hr
  | none =>
    cases s.turn with
    | accept w payload rest => exact exec_decodeCommand_overflowUnread (s := s.accepted payload rest) h w
    | event e rest => exact State.runEvent_overflowUnread (s := { s with inputs := rest }) h e
    | idle => exact .next (.kept h)

/-- Settles O56, by the kinds of step: CONFIG, reset and a POLL that begins a frame overwrite the flag, and every other step
keeps it and goes on without a frame being received. -/
theorem overflowIsReadOnlyWhileReceiving : Obligations.OverflowIsReadOnlyWhileReceiving := by
  unfold Obligations.OverflowIsReadOnlyWhileReceiving
  intro s b h
  have hstep : Result.Rel (OverflowUnread b) (step s) (step { s with overflow := b }) := step_overflowUnread h
  generalize step s = r, step { s with overflow := b } = r' at hstep
  cases hstep with
  | next ht =>
    obtain rfl | ⟨hrx, rfl⟩ := ht
    · exact .inl rfl
    · exact .inr ⟨hrx, rfl⟩
  | fault f => rfl
  | refused f => rfl

end Sys2Proof.Machine
end


section
/-!
Host memory and instance parameters (20_memory.md R66, 00_scope.md R9 to R11): what a step leaves of them.
-/

namespace Sys2Proof.Machine

variable {s t : State}

/-- The instance parameters and the host's two memories are the same in both states. -/
structure State.KeepsHost (s t : State) : Prop where
  params : t.params = s.params
  dst : t.dst = s.dst
  pl : t.pl = s.pl

/-- Building and starting a frame writes none of them. -/
theorem State.KeepsHost.send {u : State} (h : s.KeepsHost u) (who : Starter) (body : List Byte) :
    s.KeepsHost ((u.buildFrame body).startSend who) := ⟨h.params, h.dst, h.pl⟩

theorem State.pollSending_keepsHost : s.KeepsHost s.pollSending := by
  unfold State.pollSending
  split_ifs <;> exact ⟨rfl, rfl, rfl⟩

theorem State.pollReceive_keepsHost : s.KeepsHost s.pollReceive := by
  rw [State.pollReceive_eq]
  exact ⟨rfl, rfl, rfl⟩

theorem State.dispatchFrame_keepsHost (h : s.dispatchFrame = .next t) : s.KeepsHost t := by
  obtain ⟨-, -, -, f, rfl⟩ | ⟨-, -, -, -, -, rfl⟩ | ⟨-, -, rfl⟩ | ⟨-, -, rfl⟩ | rfl := State.dispatchFrame_next h
  · exact ⟨rfl, rfl, rfl⟩
  · have hready : s.KeepsHost (s.setRespAvail false) := ⟨rfl, rfl, rfl⟩
    exact hready.send _ _
  · exact ⟨rfl, rfl, rfl⟩
  · exact ⟨rfl, rfl, rfl⟩
  · exact ⟨rfl, rfl, rfl⟩

theorem State.validate_keepsHost (h : s.validate = .next t) : s.KeepsHost t := by
  obtain ⟨-, rfl⟩ | ⟨-, -, -, rfl⟩ | ⟨-, -, -, hd⟩ := State.validate_next h
  · exact ⟨rfl, rfl, rfl⟩
  · exact ⟨rfl, rfl, rfl⟩
  · exact State.dispatchFrame_keepsHost hd

theorem execPoll_keepsHost (h : execPoll s = .next t) : s.KeepsHost t := by
  obtain ⟨-, ⟨-, rfl⟩ | ⟨-, -, rfl⟩ | ⟨-, -, -, -, rfl⟩ | ⟨-, -, -, -, -, rfl⟩ | ⟨-, -, -, -, -, -, rfl⟩ |
    ⟨-, -, -, -, -, -, hv⟩ | ⟨-, -, -, rfl⟩⟩ := execPoll_next h
  · exact State.pollSending_keepsHost
  · exact ⟨rfl, rfl, rfl⟩
  · exact ⟨rfl, rfl, rfl⟩
  · exact ⟨rfl, rfl, rfl⟩
  · exact ⟨rfl, rfl, rfl⟩
  · obtain ⟨hparams, hdst, hpl⟩ := State.validate_keepsHost hv
    exact ⟨hparams, hdst, hpl⟩
  · exact State.pollReceive_keepsHost

theorem execSendErr_keepsHost {fc kind : Byte} (h : execSendErr fc kind s = .next t) : s.KeepsHost t := by
  obtain ⟨-, rfl | ⟨-, -, -, x, rfl⟩⟩ := execSendErr_next h
  · exact ⟨rfl, rfl, rfl⟩
  · have hready : s.KeepsHost (s.setRespAvail false) := ⟨rfl, rfl, rfl⟩
    exact hready.send _ _

/-- SEND_RSP only reads the payload memory. -/
theorem execSendRsp_keepsHost {fc length : Byte} {offset : Word16} (h : execSendRsp fc length offset s = .next t) :
    s.KeepsHost t := by
  obtain ⟨-, rfl | ⟨-, -, -, rfl⟩⟩ := execSendRsp_next h
  · exact ⟨rfl, rfl, rfl⟩
  · have hready : s.KeepsHost (s.draw.setRespAvail false) := ⟨rfl, rfl, rfl⟩
    exact hready.send _ _

theorem execMread_keepsHost {node fc : Byte} {start count : Word16} (h : execMread node fc start count s = .next t) :
    s.KeepsHost t := by
  obtain ⟨-, rfl | ⟨-, -, -, rfl⟩⟩ := execMread_next h
  · exact ⟨rfl, rfl, rfl⟩
  · have hready : s.KeepsHost (s.rxFlush.setMarker node) := ⟨rfl, rfl, rfl⟩
    exact hready.send _ _

/-- MFETCH writes none of them but `dst`, and that only when a response is available. -/
theorem execMfetch_host {n : Word16} (h : execMfetch n s = .next t) :
    s.KeepsHost t ∨ (s.respAvail = true ∧ t.params = s.params ∧ t.pl = s.pl) := by
  obtain ⟨-, -, rfl | ⟨havail, -, -, rfl⟩⟩ := execMfetch_next h
  · exact .inl ⟨rfl, rfl, rfl⟩
  · exact .inr ⟨havail, rfl, rfl⟩

/-- The one command that may not keep them is an MFETCH with a response available, which writes `dst`. -/
theorem exec_decodeCommand_host {w : CmdWord} (h : exec (decodeCommand w) s = .next t) :
    s.KeepsHost t ∨
      ∃ n, decodeCommand w = .mfetch n ∧ s.respAvail = true ∧ t.params = s.params ∧ t.pl = s.pl := by
  obtain ⟨b, a, d, hw⟩ | ⟨-, hw⟩ | ⟨fc, k, hw⟩ | ⟨fc, l, o, hw⟩ | ⟨n, fc, st, c, hw⟩ | ⟨n, hw⟩ | ⟨n, hw⟩ | hw :=
    decodeCommand_cases w <;> rw [hw] at h ⊢
  · obtain ⟨-, -, rfl⟩ := execConfig_next h
    exact .inl ⟨rfl, rfl, rfl⟩
  · exact .inl (execPoll_keepsHost h)
  · exact .inl (execSendErr_keepsHost h)
  · exact .inl (execSendRsp_keepsHost h)
  · exact .inl (execMread_keepsHost h)
  · exact (execMfetch_host h).imp_right fun hfetch => ⟨n, rfl, hfetch⟩
  · obtain ⟨-, -, -, -, rfl⟩ := execCrc_next h
    exact .inl ⟨rfl, rfl, rfl⟩
  · cases h
    exact .inl ⟨rfl, rfl, rfl⟩

theorem State.handOff_keepsHost (h : s.handOff = .next t) : s.KeepsHost t := by
  rw [State.handOff_frame h]
  exact ⟨rfl, rfl, rfl⟩

theorem State.microStep_keepsHost (h : s.microStep = some (.next t)) : s.KeepsHost t := by
  obtain ⟨-, -, -, hr⟩ | ⟨-, -, -, hr⟩ | ⟨-, -, hr⟩ := State.microStep_some h
  · cases hr
    exact ⟨rfl, rfl, rfl⟩
  · exact State.handOff_keepsHost hr.symm
  · exact State.handOff_keepsHost hr.symm

/-- No event writes them, not even a reset (log entry 14). -/
theorem State.runEvent_keepsHost {e : Input} (h : s.runEvent e = .next t) : s.KeepsHost t := by
  obtain ⟨b, -, rfl⟩ | ⟨-, -, rfl⟩ | ⟨d, -, -, rfl⟩ | ⟨fifo, now, -, rfl⟩ | ⟨w, p, -, rfl⟩ := State.runEvent_next h <;>
    exact ⟨rfl, rfl, rfl⟩

/-- A step keeps the parameters and the host's memories, or it accepts a command. -/
theorem step_keepsHost_or_accepts (h : step s = .next t) :
    s.KeepsHost t ∨ ∃ w payload rest, s.inputs = .command w payload :: rest ∧
      exec (decodeCommand w) (s.accepted payload rest) = .next t := by
  obtain ⟨r, hm, hr⟩ | ⟨-, w, payload, rest, hin, -, hr⟩ | ⟨-, e, rest, -, -, hr⟩ | ⟨-, -, hr⟩ := step_cases s <;>
    rw [h] at hr
  · exact .inl (State.microStep_keepsHost (hm.trans (congrArg some hr.symm)))
  · exact .inr ⟨w, payload, rest, hin, hr.symm⟩
  · obtain ⟨hparams, hdst, hpl⟩ := State.runEvent_keepsHost hr.symm
    exact .inl ⟨hparams, hdst, hpl⟩
  · cases hr
    exact .inl ⟨rfl, rfl, rfl⟩

/-- Settles O52: a step that accepts no command writes none of the three, and an accepted command finds its payload memory
in `pl`, keeps it there, and writes `dst` only as an MFETCH. -/
theorem hostMemoryAndParametersAreKept : Obligations.HostMemoryAndParametersAreKept := by
  unfold Obligations.HostMemoryAndParametersAreKept
  intro s t h
  obtain ⟨hparams, hdst, hpl⟩ | ⟨w, payload, rest, hin, hexec⟩ := step_keepsHost_or_accepts h
  · exact ⟨hparams, fun hne => absurd hdst hne, fun hne => absurd hpl hne⟩
  · obtain ⟨hparams, hdst, hpl⟩ | ⟨n, hw, havail, hparams, hpl⟩ := exec_decodeCommand_host hexec
    · exact ⟨hparams, fun hne => absurd hdst hne, fun _ => ⟨w, payload, rest, hin, hpl⟩⟩
    · exact ⟨hparams, fun _ => ⟨w, payload, rest, n, hin, hw, havail⟩, fun _ => ⟨w, payload, rest, hin, hpl⟩⟩

end Sys2Proof.Machine
end

section
/-!
The CRC-16 (40_crc16.md): the byte step is the bit-serial form (R132), a register that takes in its own bytes becomes 0
(R136), and the check values (R137).
-/

namespace Sys2Proof.Machine

/-! ### Halves of a word -/

@[simp] theorem hi8_cat (a b : Byte) : hi8 (cat a b) = a := BitVec.extractLsb'_append_eq_left

@[simp] theorem lo8_cat (a b : Byte) : lo8 (cat a b) = b := BitVec.extractLsb'_append_eq_right

/-- A byte in the low half is gone after eight shifts. -/
theorem setWidth_ushiftRight_eight (b : Byte) : b.setWidth 16 >>> 8 = 0#16 := by bv_omega

/-- Eight shifts leave the high byte. -/
theorem ushiftRight_eight (w : Word16) : w >>> 8 = (hi8 w).setWidth 16 := by
  apply BitVec.eq_of_toNat_eq
  simp [hi8, Nat.shiftRight_eq_div_pow]
  omega

/-! ### The byte step and the bit-serial form (R132) -/

/-- A shift step that XORs word `x` in first: bit 0 of `x` enters the feedback, the other bits of `x` move down unchanged. -/
theorem crcShift_xor_eq_crcBit (r x : Word16) :
    crcShift (r ^^^ x) = Spec.crcBit r (x.getLsbD 0) ^^^ (x >>> 1) := by
  unfold crcShift Spec.crcBit
  rw [BitVec.ushiftRight_xor_distrib, BitVec.getLsbD_xor]
  split_ifs
  · ac_rfl
  · rfl

/-- `k` shift steps with `x` XORed in first are `k` bit-serial steps on the low bits of `x`, in rising order; the rest of `x`
is still to enter. -/
theorem crcShifts_xor_eq_foldl_crcBit (k : Nat) (r x : Word16) :
    crcShifts k (r ^^^ x) = (List.range k).foldl (fun q i => Spec.crcBit q (x.getLsbD i)) r ^^^ (x >>> k) := by
  induction k generalizing r x with
  | zero => rfl
  | succ k ih =>
    rw [crcShifts, crcShift_xor_eq_crcBit, ih, List.range_succ_eq_map, List.foldl_cons, List.foldl_map,
      ← BitVec.shiftRight_add, Nat.add_comm 1 k]
    simp only [BitVec.getLsbD_ushiftRight, Nat.add_comm 1]

/-- The byte step is eight bit-serial steps. -/
theorem crcByte_eq (r : Word16) (b : Byte) : crcByte r b = Spec.crcByte r b := by
  rw [crcByte, crcShifts_xor_eq_foldl_crcBit, setWidth_ushiftRight_eight, BitVec.xor_zero, Spec.crcByte]
  refine List.foldl_ext _ _ _ fun q i hi => ?_
  have hlt : i < 16 := by have := List.mem_range.1 hi; omega
  rw [BitVec.getLsbD_setWidth, decide_eq_true hlt, Bool.true_and]

/-- Settles O6, by induction on the number of shift steps. -/
theorem crcByteStepIsBitSerial : Obligations.CrcByteStepIsBitSerial := crcByte_eq

/-- The CRC output is the bit-serially computed one. -/
theorem crcOutput_eq (bs : List Byte) : crcOutput bs = Spec.crcOutput bs := by
  have hstep : crcByte = Spec.crcByte := funext₂ crcByte_eq
  rw [crcOutput, crcRaw, hstep]
  rfl

/-! ### The residue (R136) -/

/-- Shift steps on a word whose low bits are 0 never meet the polynomial. -/
theorem crcShifts_eq_ushiftRight (k : Nat) (x : Word16) (h : ∀ i, i < k → x.getLsbD i = false) :
    crcShifts k x = x >>> k := by
  induction k generalizing x with
  | zero => rfl
  | succ k ih =>
    have hbit : crcShift x = x >>> 1 := if_neg (by rw [h 0 k.succ_pos]; decide)
    rw [crcShifts, hbit, ih, ← BitVec.shiftRight_add, Nat.add_comm 1 k]
    intro i hi
    rw [BitVec.getLsbD_ushiftRight, h _ (by omega)]

/-- Taking in its own low byte leaves the register's high byte. -/
theorem crcByte_lo8 (r : Word16) : crcByte r (lo8 r) = (hi8 r).setWidth 16 := by
  rw [crcByte, crcShifts_eq_ushiftRight]
  · rw [BitVec.ushiftRight_xor_distrib, setWidth_ushiftRight_eight, BitVec.xor_zero]
    exact ushiftRight_eight r
  · intro i hi
    have hi' : i < 16 := by omega
    simp [lo8, hi, hi']

/-- Taking in its own value, a register below 256 becomes 0. -/
theorem crcByte_setWidth (b : Byte) : crcByte (b.setWidth 16) b = 0#16 := by
  rw [crcByte, BitVec.xor_self]
  decide

/-- Followed by its CRC output, high byte first, every sequence has raw CRC 0. -/
theorem crcRaw_append_of_cat_eq {m : List Byte} {a b : Byte} (h : cat a b = crcOutput m) : crcRaw (m ++ [a, b]) = 0#16 := by
  have ha : a = lo8 (crcRaw m) := by simpa [crcOutput, swap16] using congrArg hi8 h
  have hb : b = hi8 (crcRaw m) := by simpa [crcOutput, swap16] using congrArg lo8 h
  rw [crcRaw_append, List.foldl_cons, List.foldl_cons, List.foldl_nil, ha, hb, crcByte_lo8, crcByte_setWidth]

variable {s : State}

/-- A frame whose last two bytes are the CRC of the others has raw CRC 0. -/
theorem State.crcRaw_bufBytes_len (hlen : 2 ≤ s.len) (hcrc : s.claimedCrc = s.crc16 (s.len - 2)) :
    crcRaw (s.bufBytes 0 s.len) = 0#16 := by
  obtain ⟨n, hn⟩ := Nat.exists_eq_add_of_le' hlen
  rw [State.claimedCrc, hn, Nat.add_sub_cancel] at hcrc
  rw [hn, State.bufBytes_succ, State.bufBytes_succ, List.append_assoc]
  exact crcRaw_append_of_cat_eq hcrc

/-- A frame that is long enough, within the buffer and ends in its CRC goes on to the dispatch (R180). -/
theorem State.validate_eq_dispatchFrame (hlong : s.longEnough) (hcap : s.len ≤ s.params.capacity)
    (hcrc : s.claimedCrc = s.crc16 (s.len - 2)) : s.validate = s.dispatchFrame := by
  have hmin : ¬ s.len < s.minLen := Nat.not_lt.2 hlong
  rw [State.validate, if_neg hmin, State.guardBuf_of_le _ hcap, if_neg (not_not.2 hcrc)]

/-- Bytes placed from index 0 with their CRC output after them are a frame that ends in its CRC. -/
theorem State.claimedCrc_of_placed {m : List Byte} (hm : ∀ i, i < m.length → s.bufByte i = m.getD i 0#8)
    (hcrc : s.bufByte m.length ++ s.bufByte (m.length + 1) = Spec.crcOutput m) (hlen : s.len = m.length + 2) :
    s.claimedCrc = s.crc16 (s.len - 2) := by
  rw [State.claimedCrc, State.bufWord, hlen, Nat.add_sub_cancel, cat_eq, hcrc, State.crc16, State.bufBytes_eq s rfl hm,
    crcOutput_eq]

/-- Settles O8: placed bytes and built frames both end in their CRC, which is all that either conclusion needs. -/
theorem appendedCrcValidates : Obligations.AppendedCrcValidates := by
  unfold Obligations.AppendedCrcValidates
  constructor
  · intro s m hm hcrc hlen
    have hclaimed := State.claimedCrc_of_placed hm hcrc hlen
    exact ⟨fun hlong hcap => State.validate_eq_dispatchFrame hlong hcap hclaimed,
      State.crcRaw_bufBytes_len (by omega) hclaimed⟩
  · intro s body
    have hclaimed := State.claimedCrc_buildFrame (s := s) body
    exact ⟨fun hlong hcap => State.validate_eq_dispatchFrame hlong hcap hclaimed,
      State.crcRaw_bufBytes_len (Nat.le_add_left 2 body.length) hclaimed⟩

/-! ### The check values (R137) -/

/-- A row of the table follows from its raw CRC. -/
theorem crcCheckRow_of_crcRaw {bs : List Byte} {raw : Word16} (h : crcRaw bs = raw) :
    crcRaw bs = raw ∧ crcOutput bs = swap16 raw ∧ hi8 (crcOutput bs) = lo8 raw ∧ lo8 (crcOutput bs) = hi8 raw := by
  rw [crcOutput, h]
  exact ⟨rfl, rfl, hi8_cat _ _, lo8_cat _ _⟩

/-- Settles O7: each raw CRC is computed, and the rest of its row follows. -/
theorem crcCheckValues : Obligations.CrcCheckValues := by
  unfold Obligations.CrcCheckValues
  refine ⟨crcCheckRow_of_crcRaw ?_, crcCheckRow_of_crcRaw ?_, crcCheckRow_of_crcRaw ?_, crcCheckRow_of_crcRaw ?_,
    crcCheckRow_of_crcRaw ?_, crcCheckRow_of_crcRaw ?_, crcCheckRow_of_crcRaw ?_⟩ <;> decide +kernel

end Sys2Proof.Machine
end

section
/-!
POLL's chain (41_frame_assembler.md R150): which branch a POLL runs, in the claims' own terms, and what the branches B1
(R151), B3 (R154, R155) and frame-complete processing (R160) answer.
-/

namespace Sys2Proof.Machine

variable {s : State}

/-! ### The conditions of the branches -/

theorem State.masterExpired_eq_true : s.masterExpired = true ↔ s.requestExpired := by
  simp [State.masterExpired, State.requestExpired, State.nowMs]

theorem State.withinT15_eq_true : s.withinT15 = true ↔ (s.nowUs - s.tLastUs) * s.t15.den < s.t15.num :=
  decide_eq_true_iff

/-! ### The branch that a POLL runs -/

/-- Branch B1. -/
theorem execPoll_of_sending (hc : s.configured = true) (htx : s.txc ≠ .idle) : execPoll s = .next s.pollSending := by
  have hsend : s.sending = true := State.sending_eq_true.2 htx
  simp [execPoll, hc, hsend]

/-- Branch B3. -/
theorem execPoll_of_no_byte (h : s.pollReceives) (hfifo : s.rxFifo = []) : execPoll s = s.pollSilent := by
  obtain ⟨hc, htx, hexp⟩ := h
  have hsend : s.sending = false := State.sending_eq_false.2 htx
  have hmaster : s.masterExpired = false := Bool.eq_false_iff.2 (mt State.masterExpired_eq_true.1 hexp)
  simp [execPoll, hc, hsend, hmaster, State.rxAvail, hfifo]

theorem State.pollSilent_of_not_receiving (h : s.rxActive = false) : s.pollSilent = .next (s.returnStatus .noFrames) :=
  if_pos h

theorem State.pollSilent_of_receiving (h : s.rxActive = true) :
    s.pollSilent = if s.withinT15 then .next (s.returnStatus .frameReceiving) else s.completeFrame :=
  if_neg (by simp [h])

/-- Branch B3, once T15 has passed (R159). -/
theorem execPoll_of_frameCompletes (h : s.frameCompletes) : execPoll s = s.completeFrame := by
  obtain ⟨hrecv, hfifo, hrx, htime⟩ := h
  have helapsed : ¬ s.withinT15 = true := mt State.withinT15_eq_true.1 (Nat.not_lt.2 htime)
  rw [execPoll_of_no_byte hrecv hfifo, State.pollSilent_of_receiving hrx, if_neg helapsed]

/-! ### What the branches answer -/

/-- The send is finalized: only the driver, the controller and the response change. -/
theorem State.pollSending_of_complete (h : s.txComplete = true) :
    s.pollSending = { s with
      de := if s.dePresent = true then false else s.de
      txc := .idle, rspOk := true, rspStatus := 4#4, rspValue := 0#16 } := by
  rw [State.pollSending, if_pos h]
  split_ifs <;> rfl

theorem State.pollSending_of_incomplete (h : s.txComplete = false) : s.pollSending = s.returnStatus .frameSending :=
  if_neg (by simp [h])

theorem State.completeFrame_of_overflow (h : s.overflow = true) :
    s.completeFrame = .next (s.endReceive.returnStatus .errOverflow) := if_pos h

theorem State.completeFrame_of_no_overflow (h : s.overflow = false) : s.completeFrame = s.endReceive.validate :=
  if_neg (by simp [h])

/-- Settles O15: branch B1, by whether the transmission is complete. -/
theorem pollDuringTransmission : Obligations.PollDuringTransmission := by
  unfold Obligations.PollDuringTransmission
  intro s hc htx
  have hpoll : exec .poll s = .next s.pollSending := execPoll_of_sending hc htx
  rw [hpoll]
  constructor
  · intro hdone
    rw [State.pollSending_of_complete hdone]
  · intro hbusy
    rw [State.pollSending_of_incomplete hbusy]
    rfl

/-- Settles O17: branch B3, by whether a frame is being received; while one is, T15 still runs. -/
theorem pollWithoutBytesWaits : Obligations.PollWithoutBytesWaits := by
  unfold Obligations.PollWithoutBytesWaits
  intro s hrecv hfifo
  have hpoll : exec .poll s = s.pollSilent := execPoll_of_no_byte hrecv hfifo
  rw [hpoll]
  constructor
  · exact State.pollSilent_of_not_receiving
  · intro hrx htime
    rw [State.pollSilent_of_receiving hrx, if_pos (State.withinT15_eq_true.2 htime)]
    rfl

/-- Settles O19: frame-complete processing, by the overflow flag. -/
theorem completedFrameIsReportedOrValidated : Obligations.CompletedFrameIsReportedOrValidated := by
  unfold Obligations.CompletedFrameIsReportedOrValidated
  intro s hframe
  have hpoll : exec .poll s = s.completeFrame := execPoll_of_frameCompletes hframe
  rw [hpoll]
  exact ⟨State.completeFrame_of_overflow, State.completeFrame_of_no_overflow⟩

end Sys2Proof.Machine
end

section
/-!
The validator (42_validator_dispatcher.md): a completed frame that is too short (R182) or whose CRC is wrong (R183), the
dispatch of a good frame as the class its first two bytes decode to (R184, R111), and what the classes answer (R185, R187,
R188).
-/

namespace Sys2Proof.Machine

variable {s : State}

/-! ### The three checks -/

/-- A POLL that completes a frame without overflow validates it, with the receiving flag cleared. -/
theorem exec_poll_of_frameCompletes (hframe : s.frameCompletes) (hover : s.overflow = false) :
    exec .poll s = s.endReceive.validate :=
  (execPoll_of_frameCompletes hframe).trans (State.completeFrame_of_no_overflow hover)

theorem State.two_le_len_of_longEnough (h : s.longEnough) : 2 ≤ s.len := by
  unfold State.longEnough at h
  split_ifs at h <;> omega

/-- The validator's CRC check is the bit-serial one. -/
theorem State.crcGood_iff (hlen : 2 ≤ s.len) : s.crcGood ↔ s.claimedCrc = s.crc16 (s.len - 2) := by
  have hlast : s.len - 1 = s.len - 2 + 1 := by omega
  rw [State.crcGood, hlast, State.claimedCrc, State.bufWord, cat_eq, State.crc16, crcOutput_eq,
    State.bufBytes_eq_frameLike, State.frameBytes]

theorem State.validate_of_short (h : ¬ s.longEnough) :
    s.validate = .next (s.clearMarker.returnStatus .errCorrupted) :=
  if_pos (Nat.lt_of_not_le h)

theorem State.validate_of_bad_crc (hlong : s.longEnough) (hcap : s.len ≤ s.params.capacity) (hcrc : ¬ s.crcGood) :
    s.validate = .next (s.clearMarker.returnStatus .errCrcFailed) := by
  have hmin : ¬ s.len < s.minLen := Nat.not_lt.2 hlong
  have hne : s.claimedCrc ≠ s.crc16 (s.len - 2) := mt (State.crcGood_iff (State.two_le_len_of_longEnough hlong)).2 hcrc
  rw [State.validate, if_neg hmin, State.guardBuf_of_le _ hcap, if_pos hne]

/-- Settles O22: the length check passes and the CRC check decides. -/
theorem badCrcIsReported : Obligations.BadCrcIsReported := by
  unfold Obligations.BadCrcIsReported
  intro s hframe hover hlong hcap hcrc
  rw [exec_poll_of_frameCompletes hframe hover, State.validate_of_bad_crc (s := s.endReceive) hlong hcap hcrc]
  rfl

/-- Settles O21: the length check decides. -/
theorem shortFrameIsCorrupted : Obligations.ShortFrameIsCorrupted := by
  unfold Obligations.ShortFrameIsCorrupted
  intro s hframe hover hshort
  rw [exec_poll_of_frameCompletes hframe hover, State.validate_of_short (s := s.endReceive) hshort]
  rfl

/-! ### The dispatch of a good frame -/

theorem State.wireCase_own {a : Byte} (h : a = s.myAddr ∧ s.awaitValid = false) : s.wireCase a = .own := if_pos h

theorem State.wireCase_awaited {a : Byte} (h : s.awaitValid = true ∧ a = s.awaitAddr) : s.wireCase a = .awaited := by
  have hown : ¬ (a = s.myAddr ∧ s.awaitValid = false) := by simp [h.1]
  rw [State.wireCase, if_neg hown, if_pos h]

theorem State.wireCase_foreign {a : Byte} (hown : ¬ (a = s.myAddr ∧ s.awaitValid = false))
    (hawaited : ¬ (s.awaitValid = true ∧ a = s.awaitAddr)) : s.wireCase a = .foreign := by
  rw [State.wireCase, if_neg hown, if_neg hawaited]

/-- The dispatch runs the instruction that the first two bytes decode to in the frame's case: in each case the decoder tries
the rows that the dispatch tries, in the same order (R111). -/
theorem State.dispatchFrame_eq_exec_decodeWire (s : State) :
    s.dispatchFrame = exec (decodeWire (s.wireCase (s.bufByte 0)) (s.bufByte 0 ++ s.bufByte 1)) s := by
  simp only [State.dispatchFrame, decodeWire, BitVec.extractLsb'_append_eq_left, BitVec.extractLsb'_append_eq_right]
  cases s.wireCase (s.bufByte 0) with
  | own => simp only []; split_ifs <;> rfl
  | awaited => simp only []; split_ifs <;> rfl
  | foreign => rfl

/-- A POLL runs a completed good frame as its class, with the receiving flag cleared. -/
theorem exec_poll_of_good_frame (hframe : s.frameCompletes) (hover : s.overflow = false) (hlong : s.longEnough)
    (hcap : s.len ≤ s.params.capacity) (hcrc : s.crcGood) :
    exec .poll s = exec (decodeWire (s.wireCase (s.bufByte 0)) (s.bufByte 0 ++ s.bufByte 1)) s.endReceive := by
  have hclaimed := (State.crcGood_iff (State.two_le_len_of_longEnough hlong)).1 hcrc
  rw [exec_poll_of_frameCompletes hframe hover,
    State.validate_eq_dispatchFrame (s := s.endReceive) hlong hcap hclaimed]
  exact State.dispatchFrame_eq_exec_decodeWire s.endReceive

/-- Settles O23: a good frame is run as its class, and the three tests give its case. -/
theorem pollRunsTheDecodedFrameClass : Obligations.PollRunsTheDecodedFrameClass := by
  unfold Obligations.PollRunsTheDecodedFrameClass
  intro s hframe hover hlong hcap hcrc
  rw [exec_poll_of_good_frame hframe hover hlong hcap hcrc]
  refine ⟨fun hown => ?_, fun hawaited => ?_, fun hown hawaited => ?_⟩
  · rw [State.wireCase_own hown]
    rfl
  · rw [State.wireCase_awaited hawaited]
    rfl
  · rw [State.wireCase_foreign hown hawaited]
    rfl

/-! ### What the classes answer -/

/-- A read request: bytes 2 to 5 exist in every buffer of at least 6 bytes. -/
theorem State.receiveRequest_of_room (h : 6 ≤ s.params.capacity) (f : Byte) :
    s.receiveRequest f = .next { s with
      outFunc := f, outStart := s.bufByte 2 ++ s.bufByte 3, outCount := s.bufByte 4 ++ s.bufByte 5
      rspOk := true, rspStatus := 2#4, rspValue := 0#16 } :=
  State.guardBuf_of_le s h _

/-- Settles O24: both function codes are one operation, with the function code as its argument. -/
theorem ownReadRequestIsReported : Obligations.OwnReadRequestIsReported := by
  unfold Obligations.OwnReadRequestIsReported
  intro a s hcap
  have hroom : 6 ≤ s.params.capacity := by omega
  exact ⟨State.receiveRequest_of_room hroom 3#8, State.receiveRequest_of_room hroom 4#8⟩

theorem State.receiveResponse_eq (s : State) : s.receiveResponse = .next { s with
    awaitValid := false, respAvail := true, rspOk := true, rspStatus := 5#4, rspValue := 0#16 } := rfl

theorem State.receiveException_eq (s : State) : s.receiveException = .next { s with
    awaitValid := false, rspOk := true, rspStatus := 6#4, rspValue := 0#16 } := rfl

/-- Settles O26: function codes 3 and 4 receive the response, the two other rows the exception. -/
theorem awaitedResponseIsReported : Obligations.AwaitedResponseIsReported := by
  unfold Obligations.AwaitedResponseIsReported
  intro a f s
  exact ⟨s.receiveResponse_eq, s.receiveResponse_eq, s.receiveException_eq, s.receiveException_eq⟩

/-- Settles O27: the meaning of a foreign frame writes the response only. -/
theorem foreignFrameIsIgnored : Obligations.ForeignFrameIsIgnored := by
  unfold Obligations.ForeignFrameIsIgnored
  intro a f s
  rfl

end Sys2Proof.Machine
end

section
/-!
The slave responder (43_slave_responder.md): the failures of its two commands (R200, R202, R206, R209).
-/

namespace Sys2Proof.Machine

variable {s : State}

/-! ### The precheck -/

/-- While sending, no command is let through (R200). -/
theorem State.slavePrecheck_of_sending (hconf : s.configured = true) (htx : s.txc ≠ .idle) (k : Result) :
    s.slavePrecheck k = .next s.returnFail := by
  simp [State.slavePrecheck, hconf, State.sending_eq_true.2 htx]

/-- A configured block that neither sends nor receives lets the command through. -/
theorem State.slavePrecheck_of_idle (hconf : s.configured = true) (htx : s.txc = .idle) (hrx : s.rxActive = false)
    (k : Result) : s.slavePrecheck k = k := by
  simp [State.slavePrecheck, hconf, State.sending_eq_false.2 htx, hrx]

/-- A slave command fails while sending, and otherwise when its own part fails. -/
theorem State.slavePrecheck_fails {k : Result} (hconf : s.configured = true)
    (h : s.txc ≠ .idle ∨ (s.rxActive = false ∧ k = .next s.returnFail)) : s.slavePrecheck k = .next s.returnFail := by
  by_cases htx : s.txc = .idle
  · obtain ⟨hrx, hk⟩ := h.resolve_left (not_not.2 htx)
    rw [State.slavePrecheck_of_idle hconf htx hrx, hk]
  · exact State.slavePrecheck_of_sending hconf htx k

/-! ### The commands' own checks -/

theorem exceptionByte_eq_none {kind : Byte} : exceptionByte kind = none ↔ kind ≠ 1#8 ∧ kind ≠ 2#8 := by
  unfold exceptionByte
  split_ifs with h1 h2 <;> simp [*]

theorem servedFunction_eq_false {fc : Byte} : servedFunction fc = false ↔ fc ≠ 3#8 ∧ fc ≠ 4#8 := by
  simp [servedFunction]

/-- SEND_ERR fails while sending, or on a kind that has no exception byte (R202). -/
theorem execSendErr_fails {kind : Byte} (hconf : s.configured = true)
    (h : s.txc ≠ .idle ∨ (s.rxActive = false ∧ exceptionByte kind = none)) (fc : Byte) :
    execSendErr fc kind s = .next s.returnFail :=
  State.slavePrecheck_fails hconf (h.imp_right fun ⟨hrx, hkind⟩ => ⟨hrx, by rw [hkind]⟩)

/-- SEND_RSP fails while sending, on a function code that is not served, or on a frame past the buffer's end (R206). -/
theorem execSendRsp_fails {fc length : Byte} (hconf : s.configured = true)
    (h : s.txc ≠ .idle ∨
      (s.rxActive = false ∧ (servedFunction fc = false ∨ s.params.capacity < length.toNat + 5))) (offset : Word16) :
    execSendRsp fc length offset s = .next s.returnFail := by
  refine State.slavePrecheck_fails hconf (h.imp_right fun ⟨hrx, hcheck⟩ => ⟨hrx, ?_⟩)
  by_cases hfc : servedFunction fc = false
  · exact if_pos hfc
  · have hlong : 3 + length.toNat + 2 > s.params.capacity := by
      have := hcheck.resolve_left hfc
      omega
    rw [if_neg hfc, if_pos hlong]

/-- Settles O30: each cause of failure is the precheck's or one of the command's own checks, and a failure writes the
response only. -/
theorem failingSlaveSendHasNoEffect : Obligations.FailingSlaveSendHasNoEffect := by
  unfold Obligations.FailingSlaveSendHasNoEffect
  intro fc kind length offset s hconf
  rw [← exceptionByte_eq_none, ← servedFunction_eq_false]
  exact ⟨fun h => execSendErr_fails hconf h fc, fun h => execSendRsp_fails hconf h offset⟩

end Sys2Proof.Machine
end

section
/-!
The master requester (44_master_requester.md): the rejections of MREAD (R221, R222), and what MFETCH does with an available
response (R228, R229).
-/

namespace Sys2Proof.Machine

variable {s : State}

/-! ### MREAD -/

/-- Each argument check of R221 by its failure; `count * 2 + 5` does not wrap (D26). -/
theorem mreadArgsValid_eq_false {capacity : Nat} {node fc : Byte} {count : Word16} :
    mreadArgsValid capacity node fc count = false ↔
      node.toNat < 1 ∨ 254 < node.toNat ∨ (fc ≠ 3#8 ∧ fc ≠ 4#8) ∨ count = 0#16 ∨ capacity < count.toNat * 2 + 5 := by
  have hcount : count.toNat = 0 ↔ count = 0#16 := BitVec.toNat_inj (y := 0#16)
  simp only [mreadArgsValid, Bool.and_eq_false_iff, decide_eq_false_iff_not, Nat.not_le, not_not,
    servedFunction_eq_false, hcount, or_assoc]
  rfl

/-- MREAD fails on an invalid argument, while receiving, or while sending (R221). -/
theorem execMread_fails {node fc : Byte} {count : Word16} (hconf : s.configured = true)
    (h : mreadArgsValid s.params.capacity node fc count = false ∨ s.rxActive = true ∨ s.txc ≠ .idle) (start : Word16) :
    execMread node fc start count s = .next s.returnFail := by
  rw [← State.sending_eq_true] at h
  rw [execMread, if_neg (by simp [hconf]), if_pos h]

/-- Settles O33: each cause is an invalid argument or a busy block, and a failure writes the response only. -/
theorem rejectedMreadHasNoEffect : Obligations.RejectedMreadHasNoEffect := by
  unfold Obligations.RejectedMreadHasNoEffect
  intro node fc start count s hconf h
  refine execMread_fails hconf ?_ start
  rw [mreadArgsValid_eq_false]
  simpa only [or_assoc] using h

/-! ### MFETCH -/

/-- With a response available whose payload lies in the buffer, MFETCH copies the payload and answers its length, or copies
nothing and answers 0 (R228). -/
theorem execMfetch_of_response (hconf : s.configured = true) (htx : s.txc = .idle) (havail : s.respAvail = true)
    (hroom : 3 + (s.len - 5) ≤ s.params.capacity) (n : Word16) :
    execMfetch n s =
      if s.len - 5 ≤ n.toNat ∧ s.len - 5 = (s.bufByte 2).toNat then
        .next (State.returnValue { s with dst := s.dst.writeBytes 0 (s.bufBytes 3 (s.len - 5)) }
          (BitVec.ofNat 16 (s.len - 5)))
      else .next (s.returnValue 0#16) := by
  have hsend : s.sending = false := State.sending_eq_false.2 htx
  rw [execMfetch, if_neg (by simp [hconf]), if_neg (by simp [hsend]), if_neg (by simp [havail])]
  exact State.guardBuf_of_le s hroom _

/-- Bytes of `buf` copied to a memory from address 0 are read there, and every other address reads as before. -/
theorem State.read?_writeBytes_bufBytes (m : Memory) (a n i : Nat) :
    Memory.read? (m.writeBytes 0 (s.bufBytes a n)) i = if i < n then some (s.bufByte (a + i)) else m.read? i := by
  rw [Memory.read?_writeBytes, State.length_bufBytes, Nat.zero_add, Nat.sub_zero]
  by_cases hi : i < n
  · have hlen : i < (s.bufBytes a n).length := by rwa [State.length_bufBytes]
    rw [if_pos ⟨i.zero_le, hi⟩, if_pos hi, List.getElem?_eq_getElem hlen, State.getElem_bufBytes]
  · rw [if_neg fun h => hi h.2, if_neg hi]

/-- Settles O34: the two answers of an MFETCH with a response available, and what the copy leaves in `dst`. -/
theorem mfetchCopiesOnlyAMatchingPayload : Obligations.MfetchCopiesOnlyAMatchingPayload := by
  unfold Obligations.MfetchCopiesOnlyAMatchingPayload
  intro n s hconf htx havail hshort hcap
  have hmfetch := execMfetch_of_response hconf htx havail (by omega) n
  constructor
  · intro hfits
    rw [if_pos hfits] at hmfetch
    refine ⟨_, hmfetch, rfl, fun i hi => ?_, fun i hi => ?_⟩
    · exact (State.read?_writeBytes_bufBytes _ _ _ _).trans (if_pos hi)
    · exact (State.read?_writeBytes_bufBytes _ _ _ _).trans (if_neg (Nat.not_lt.2 hi))
  · intro hmisfit
    exact hmfetch.trans (if_neg hmisfit)

end Sys2Proof.Machine
end

section
/-!
The transmission controller (45_transmission_controller.md): the micro-steps that end its two waits (R243 to R246).
-/

namespace Sys2Proof.Machine

variable {s : State}

/-! ### The waits that are over -/

/-- Silence has elapsed: at least T35 since the last byte (R242). -/
theorem State.withinT35_eq_false : s.withinT35 = false ↔ s.t35.num ≤ (s.nowUs - s.tLastUs) * s.t35.den :=
  decide_eq_false_iff_not.trans Nat.not_lt

/-- The driver has settled (R245). -/
theorem State.settling_eq_false : s.settling = false ↔ s.params.deSettleUs ≤ s.nowUs - s.tDeUs :=
  decide_eq_false_iff_not.trans Nat.not_lt

/-! ### The micro-step that is enabled -/

/-- An enabled micro-step is the step (R248). -/
theorem step_of_microStep {r : Result} (h : s.microStep = some r) : step s = r := by rw [step, h]

theorem State.microStep_of_silence_with_pin (htx : s.txc = .waitSilence) (hsilent : s.withinT35 = false)
    (hpin : s.dePresent = true) : s.microStep = some (.next s.enableDriver) := by
  simp [State.microStep, htx, hsilent, hpin]

theorem State.microStep_of_silence_without_pin (htx : s.txc = .waitSilence) (hsilent : s.withinT35 = false)
    (hpin : s.dePresent = false) : s.microStep = some s.handOff := by
  simp [State.microStep, htx, hsilent, hpin]

theorem State.microStep_of_settled (htx : s.txc = .deSettle) (hsettled : s.settling = false) :
    s.microStep = some s.handOff := by
  simp [State.microStep, htx, hsettled]

/-- Settles O36: the enabled micro-step is that of R244. -/
theorem silenceEnablesTheDriver : Obligations.SilenceEnablesTheDriver := by
  unfold Obligations.SilenceEnablesTheDriver
  intro s htx hsilent hpin
  exact step_of_microStep (State.microStep_of_silence_with_pin htx (State.withinT35_eq_false.2 hsilent) hpin)

/-! ### The hand-off -/

/-- The command that started the send answers ERR_ILLEGAL_FUNCTION if it is a POLL, and OK otherwise (R246). -/
theorem State.returnStarter_of_some {who : Starter} (h : s.starter = some who) :
    s.returnStarter = s.respond true (if who = .poll then 10#4 else 0#4) 0#16 := by
  cases who <;> simp [State.returnStarter, h, State.returnStatus, State.returnValue, PollStatus.code]

/-- The hand-off of a frame that lies in the buffer (R246). -/
theorem State.handOff_of_starter {who : Starter} (hwho : s.starter = some who) (hcap : s.len ≤ s.params.capacity) :
    s.handOff = .next { s with
      txBusy := true, txComplete := false, txLog := s.txLog ++ s.frameBytes s.len, txc := .active, starter := none
      rspOk := true, rspStatus := if who = .poll then 10#4 else 0#4, rspValue := 0#16 } := by
  have hstarter : ((s.txWrite (s.bufBytes 0 s.len)).setTxc .active).starter = some who := hwho
  rw [State.handOff, State.guardBuf_of_le s hcap, State.returnStarter_of_some hstarter, State.bufBytes_eq_frameLike]
  rfl

/-- Settles O37: either wait ends in the hand-off. -/
theorem handOffCompletesTheSend : Obligations.HandOffCompletesTheSend := by
  unfold Obligations.HandOffCompletesTheSend
  intro s who hwho hcap hready
  have hmicro : s.microStep = some s.handOff := by
    obtain ⟨htx, hpin, hsilent⟩ | ⟨htx, hsettled⟩ := hready
    · exact State.microStep_of_silence_without_pin htx (State.withinT35_eq_false.2 hsilent) hpin
    · exact State.microStep_of_settled htx (State.settling_eq_false.2 hsettled)
  exact (step_of_microStep hmicro).trans (State.handOff_of_starter hwho hcap)

end Sys2Proof.Machine
end

section
/-!
The transmission controller's transitions (47_common_semantics.md R272): what each kind of step can do to `txc`.
-/

namespace Sys2Proof.Machine

variable {s t : State}

/-! ### A POLL -/

/-- A dispatched frame moves the controller only by starting the automatic error response (R186). -/
theorem State.dispatchFrame_txc (h : s.dispatchFrame = .next t) :
    t.txc = s.txc ∨
      ((s.bufByte 0 = s.myAddr ∧ s.awaitValid = false ∧ s.bufByte 1 ≠ 3#8 ∧ s.bufByte 1 ≠ 4#8) ∧
        t.txc = .waitSilence ∧ t.starter = some .poll) := by
  obtain ⟨-, -, -, f, rfl⟩ | ⟨hawait, haddr, h3, h4, -, rfl⟩ | ⟨-, -, rfl⟩ | ⟨-, -, rfl⟩ | rfl :=
    State.dispatchFrame_next h
  · exact .inl rfl
  · exact .inr ⟨⟨haddr, hawait, h3, h4⟩, rfl, rfl⟩
  · exact .inl rfl
  · exact .inl rfl
  · exact .inl rfl

/-- A validated frame moves the controller only if it is good and gets the automatic error response. -/
theorem State.validate_txc (h : s.validate = .next t) :
    t.txc = s.txc ∨
      ((s.longEnough ∧ s.crcGood ∧
          s.bufByte 0 = s.myAddr ∧ s.awaitValid = false ∧ s.bufByte 1 ≠ 3#8 ∧ s.bufByte 1 ≠ 4#8) ∧
        t.txc = .waitSilence ∧ t.starter = some .poll) := by
  obtain ⟨-, rfl⟩ | ⟨-, -, -, rfl⟩ | ⟨hlen, -, hcrc, hd⟩ := State.validate_next h
  · exact .inl rfl
  · exact .inl rfl
  · have hlong : s.longEnough := hlen
    have hgood : s.crcGood := (State.crcGood_iff (State.two_le_len_of_longEnough hlong)).2 hcrc
    exact (State.dispatchFrame_txc hd).imp_right fun ⟨hother, hstart⟩ => ⟨⟨hlong, hgood, hother⟩, hstart⟩

/-- Branch B1 moves the controller only when the transmission is complete (R151). -/
theorem State.pollSending_txc (s : State) :
    s.pollSending.txc = s.txc ∨ (s.txComplete = true ∧ s.pollSending.txc = .idle) := by
  cases hdone : s.txComplete with
  | false => rw [State.pollSending_of_incomplete hdone]; exact .inl rfl
  | true => rw [State.pollSending_of_complete hdone]; exact .inr ⟨rfl, rfl⟩

/-- A POLL moves the controller by finalizing a complete transmission or by starting the automatic error response. -/
theorem execPoll_txc (h : execPoll s = .next t) :
    t.txc = s.txc ∨ (s.txComplete = true ∧ t.txc = .idle) ∨
      (s.autoResponds ∧ t.txc = .waitSilence ∧ t.starter = some .poll) := by
  obtain ⟨hconf, ⟨-, rfl⟩ | ⟨-, -, rfl⟩ | ⟨-, -, -, -, rfl⟩ | ⟨-, -, -, -, -, rfl⟩ | ⟨-, -, -, -, -, -, rfl⟩ |
    ⟨hidle, hexp, hfifo, hrx, htime, hover, hv⟩ | ⟨-, -, -, rfl⟩⟩ := execPoll_next h
  · exact s.pollSending_txc.imp_right .inl
  · exact .inl rfl
  · exact .inl rfl
  · exact .inl rfl
  · exact .inl rfl
  · have hrecv : s.pollReceives := ⟨hconf, hidle, mt State.masterExpired_eq_true.2 (Bool.eq_false_iff.1 hexp)⟩
    have helapsed : s.t15.num ≤ (s.nowUs - s.tLastUs) * s.t15.den :=
      Nat.not_lt.1 (mt State.withinT15_eq_true.2 (Bool.eq_false_iff.1 htime))
    have hframe : s.frameCompletes := ⟨hrecv, hfifo, hrx, helapsed⟩
    exact (State.validate_txc hv).imp_right fun ⟨hanswered, hstart⟩ => .inr ⟨⟨hframe, hover, hanswered⟩, hstart⟩
  · rw [State.pollReceive_eq]
    exact .inl rfl

/-! ### The kinds of step -/

/-- The first row of the table: the command at the head of the inputs starts a send. -/
def State.StartsWait (s t : State) : Prop :=
  s.txc = .idle ∧ t.txc = .waitSilence ∧ ∃ who, t.starter = some who ∧ s.headSends who

/-- The fifth row of the table: the POLL at the head of the inputs finalizes a complete transmission. -/
def State.Finalizes (s t : State) : Prop :=
  s.txc = .active ∧ t.txc = .idle ∧ s.txComplete = true ∧ s.headIsPoll

/-- An accepted command moves the controller only by starting a send or, as a POLL, by finalizing one. -/
theorem State.command_txc {w : CmdWord} {payload : Memory} {rest : List Input}
    (hin : s.inputs = .command w payload :: rest) (hwait : s.waiting = false)
    (h : exec (decodeCommand w) (s.accepted payload rest) = .next t) (hne : t.txc ≠ s.txc) :
    s.StartsWait t ∨ s.Finalizes t := by
  have head : ∀ i, decodeCommand w = i → s.headDecodesTo i := fun i hi => ⟨w, payload, rest, hin, hi⟩
  obtain ⟨b, a, d, hw⟩ | ⟨rfl, hw⟩ | ⟨fc, k, hw⟩ | ⟨fc, l, o, hw⟩ | ⟨n, fc, st, c, hw⟩ | ⟨n, hw⟩ | ⟨n, hw⟩ | hw :=
    decodeCommand_cases w <;> rw [hw] at h
  · obtain ⟨-, hidle, rfl⟩ := execConfig_next h
    exact absurd hidle.symm hne
  · have hpoll : s.headIsPoll := ⟨payload, rest, hin⟩
    obtain hsame | ⟨hdone, hidle⟩ | ⟨hauto, hstart, hwho⟩ := execPoll_txc h
    · exact absurd hsame hne
    · have hactive : s.txc = .active :=
        (State.waiting_eq_false.1 hwait).resolve_left fun hi => hne (hidle.trans hi.symm)
      exact .inr ⟨hactive, hidle, hdone, hpoll⟩
    · have hs : s.autoResponds := hauto
      obtain ⟨⟨⟨-, hidle, -⟩, -⟩, -⟩ := hs
      exact .inl ⟨hidle, hstart, .poll, hwho, hpoll, hauto⟩
  · obtain ⟨-, rfl | ⟨hidle, -, -, x, rfl⟩⟩ := execSendErr_next h
    · exact absurd rfl hne
    · exact .inl ⟨hidle, rfl, .sendErr, rfl, fc, k, head _ hw⟩
  · obtain ⟨-, rfl | ⟨hidle, -, -, rfl⟩⟩ := execSendRsp_next h
    · exact absurd rfl hne
    · exact .inl ⟨hidle, rfl, .sendRsp, rfl, fc, l, o, head _ hw⟩
  · obtain ⟨-, rfl | ⟨hidle, -, -, rfl⟩⟩ := execMread_next h
    · exact absurd rfl hne
    · exact .inl ⟨hidle, rfl, .mread, rfl, n, fc, st, c, head _ hw⟩
  · obtain ⟨-, -, rfl | ⟨-, -, -, rfl⟩⟩ := execMfetch_next h
    · exact absurd rfl hne
    · exact absurd rfl hne
  · obtain ⟨-, -, -, -, rfl⟩ := execCrc_next h
    exact absurd rfl hne
  · cases h
    exact absurd rfl hne

theorem State.handOff_txc (h : s.handOff = .next t) : t.txc = .active := by rw [State.handOff_frame h]

/-- The micro-steps are rows two to four of the table. -/
theorem State.microStep_txc (h : s.microStep = some (.next t)) :
    (s.txc = .waitSilence ∧ t.txc = .active ∧ s.dePresent = false ∧
      s.t35.num ≤ (s.nowUs - s.tLastUs) * s.t35.den) ∨
    (s.txc = .waitSilence ∧ t.txc = .deSettle ∧ s.dePresent = true ∧
      s.t35.num ≤ (s.nowUs - s.tLastUs) * s.t35.den) ∨
    (s.txc = .deSettle ∧ t.txc = .active ∧ s.params.deSettleUs ≤ s.nowUs - s.tDeUs) := by
  obtain ⟨hwait, hsilent, hpin, hr⟩ | ⟨hwait, hsilent, hpin, hr⟩ | ⟨hsettle, hsettled, hr⟩ := State.microStep_some h
  · cases hr
    exact .inr (.inl ⟨hwait, rfl, hpin, State.withinT35_eq_false.1 hsilent⟩)
  · exact .inl ⟨hwait, State.handOff_txc hr.symm, hpin, State.withinT35_eq_false.1 hsilent⟩
  · exact .inr (.inr ⟨hsettle, State.handOff_txc hr.symm, State.settling_eq_false.1 hsettled⟩)

/-- Of the events only a reset moves the controller. -/
theorem State.runEvent_txc {e : Input} (h : s.runEvent e = .next t) :
    t.txc = s.txc ∨ (t.txc = .idle ∧ ∃ fifo now, e = .reset fifo now) := by
  obtain ⟨b, -, rfl⟩ | ⟨-, -, rfl⟩ | ⟨d, -, -, rfl⟩ | ⟨fifo, now, he, rfl⟩ | ⟨w, p, -, rfl⟩ := State.runEvent_next h
  · exact .inl rfl
  · exact .inl rfl
  · exact .inl rfl
  · exact .inr ⟨rfl, fifo, now, he⟩
  · exact .inl rfl

/-- Settles O39, by the kinds of step: a micro-step is rows two to four, an accepted command the first or the fifth, an event
the last, and the passing of time moves nothing. -/
theorem controllerMovesAsTheTableSays : Obligations.ControllerMovesAsTheTableSays := by
  unfold Obligations.ControllerMovesAsTheTableSays
  intro s t h hne
  obtain ⟨r, hm, hr⟩ | ⟨-, w, payload, rest, hin, hwait, hr⟩ | ⟨-, e, rest, hin, -, hr⟩ | ⟨-, -, hr⟩ := step_cases s <;>
    rw [h] at hr
  · obtain hactive | hsettle | hsettled := State.microStep_txc (hm.trans (congrArg some hr.symm))
    · exact .inr (.inl hactive)
    · exact .inr (.inr (.inl hsettle))
    · exact .inr (.inr (.inr (.inl hsettled)))
  · obtain hstart | hfinal := State.command_txc hin hwait hr.symm hne
    · exact .inl hstart
    · exact .inr (.inr (.inr (.inr (.inl hfinal))))
  · obtain hsame | ⟨hidle, fifo, now, rfl⟩ := State.runEvent_txc hr.symm
    · exact absurd hsame hne
    · exact .inr (.inr (.inr (.inr (.inr ⟨hidle, fifo, now, rest, hin⟩))))
  · cases hr
    exact absurd rfl hne

end Sys2Proof.Machine
end

section
/-!
A transmission that does not complete (70_reset_and_hazards.md R351, 45_transmission_controller.md R250): while TX_DONE has
not occurred, no command and no step but a reset ends it, and nothing is received.
-/

namespace Sys2Proof.Machine

variable {s t u : State}

/-! ### Accepted commands -/

/-- CONFIG is refused while `txc` is not TXC_IDLE (R265, D22). -/
theorem execConfig_of_sending {baud : BitVec 32} (hbaud : baud ≠ 0#32) (htx : s.txc ≠ .idle) (addr : Byte)
    (dePresent : Bool) : execConfig baud addr dePresent s = .refused .configWhileSending := by
  rw [execConfig, if_neg hbaud, if_pos htx]

/-- While a transmission is not complete, a command that is answered writes the response only. -/
theorem exec_decodeCommand_of_incomplete {w : CmdWord} (htx : s.txc ≠ .idle) (hbusy : s.txComplete = false)
    (h : exec (decodeCommand w) s = .next t) : ∃ ok status value, t = s.respond ok status value := by
  obtain ⟨b, a, d, hw⟩ | ⟨-, hw⟩ | ⟨fc, k, hw⟩ | ⟨fc, l, o, hw⟩ | ⟨n, fc, st, c, hw⟩ | ⟨n, hw⟩ | ⟨n, hw⟩ | hw :=
    decodeCommand_cases w <;> rw [hw] at h
  · obtain ⟨-, hidle, -⟩ := execConfig_next h
    exact absurd hidle htx
  · obtain ⟨-, ⟨-, rfl⟩ | ⟨hidle, -⟩ | ⟨hidle, -⟩ | ⟨hidle, -⟩ | ⟨hidle, -⟩ | ⟨hidle, -⟩ | ⟨hidle, -⟩⟩ := execPoll_next h
    · exact ⟨_, _, _, State.pollSending_of_incomplete hbusy⟩
    all_goals exact absurd hidle htx
  · obtain ⟨-, rfl | ⟨hidle, -⟩⟩ := execSendErr_next h
    · exact ⟨_, _, _, rfl⟩
    · exact absurd hidle htx
  · obtain ⟨-, rfl | ⟨hidle, -⟩⟩ := execSendRsp_next h
    · exact ⟨_, _, _, rfl⟩
    · exact absurd hidle htx
  · obtain ⟨-, rfl | ⟨hidle, -⟩⟩ := execMread_next h
    · exact ⟨_, _, _, rfl⟩
    · exact absurd hidle htx
  · obtain ⟨-, hidle, -⟩ := execMfetch_next h
    exact absurd hidle htx
  · obtain ⟨-, hidle, -⟩ := execCrc_next h
    exact absurd hidle htx
  · cases h
    exact ⟨_, _, _, rfl⟩

/-! ### One step -/

/-- The transmission goes on: nothing of the frame, the receiver or the controller is written, the FIFO only grows, and
inputs are only taken from the head of the list. -/
structure State.KeepsTransmission (s t : State) : Prop where
  configured : t.configured = s.configured
  txc : t.txc = s.txc
  buf : t.buf = s.buf
  len : t.len = s.len
  rxActive : t.rxActive = s.rxActive
  rxFifo : s.rxFifo <+: t.rxFifo
  inputs : t.inputs <:+ s.inputs

theorem State.KeepsTransmission.refl (s : State) : s.KeepsTransmission s :=
  ⟨rfl, rfl, rfl, rfl, rfl, List.prefix_rfl, List.suffix_rfl⟩

theorem State.KeepsTransmission.trans (hst : s.KeepsTransmission t) (htu : t.KeepsTransmission u) :
    s.KeepsTransmission u where
  configured := htu.configured.trans hst.configured
  txc := htu.txc.trans hst.txc
  buf := htu.buf.trans hst.buf
  len := htu.len.trans hst.len
  rxActive := htu.rxActive.trans hst.rxActive
  rxFifo := hst.rxFifo.trans htu.rxFifo
  inputs := htu.inputs.trans hst.inputs

/-- Of the events only a reset ends the transmission, and only TX_DONE completes it. -/
theorem State.runEvent_keepsTransmission {e : Input} (hreset : ∀ fifo now, e ≠ .reset fifo now)
    (h : s.runEvent e = .next t) :
    s.KeepsTransmission t ∧ (t.txComplete = s.txComplete ∨ e = .txDone) := by
  obtain ⟨b, -, rfl⟩ | ⟨he, -, rfl⟩ | ⟨d, -, -, rfl⟩ | ⟨fifo, now, he, rfl⟩ | ⟨w, p, -, rfl⟩ := State.runEvent_next h
  · exact ⟨⟨rfl, rfl, rfl, rfl, rfl, List.prefix_append _ _, List.suffix_rfl⟩, .inl rfl⟩
  · exact ⟨⟨rfl, rfl, rfl, rfl, rfl, List.prefix_rfl, List.suffix_rfl⟩, .inr he⟩
  · exact ⟨⟨rfl, rfl, rfl, rfl, rfl, List.prefix_rfl, List.suffix_rfl⟩, .inl rfl⟩
  · exact absurd he (hreset fifo now)
  · exact ⟨.refl _, .inl rfl⟩

/-- Every step but a reset keeps the transmission going, and only TX_DONE completes it (R250). -/
theorem step_keepsTransmission (htx : s.txc = .active) (hbusy : s.txComplete = false) (hreset : ¬ s.headIsReset)
    (h : step s = .next t) : s.KeepsTransmission t ∧ (t.txComplete = false ∨ s.headIsTxDone) := by
  have hmicro : s.microStep = none := State.microStep_none_of_not_waiting (State.waiting_eq_false.2 (.inr htx))
  obtain ⟨r, hm, -⟩ | ⟨-, w, payload, rest, hin, -, hr⟩ | ⟨-, e, rest, hin, -, hr⟩ | ⟨-, -, hr⟩ := step_cases s
  · rw [hmicro] at hm
    cases hm
  · have hsend : (s.accepted payload rest).txc ≠ .idle := by simp [htx]
    obtain ⟨ok, status, value, rfl⟩ := exec_decodeCommand_of_incomplete hsend hbusy (hr.symm.trans h)
    exact ⟨⟨rfl, rfl, rfl, rfl, rfl, List.prefix_rfl, hin ▸ List.suffix_cons _ _⟩, .inl hbusy⟩
  · have htaken : s.KeepsTransmission { s with inputs := rest } :=
      ⟨rfl, rfl, rfl, rfl, rfl, List.prefix_rfl, hin ▸ List.suffix_cons _ _⟩
    have hevent : ∀ fifo now, e ≠ .reset fifo now := by
      rintro fifo now rfl
      exact hreset ⟨fifo, now, rest, hin⟩
    obtain ⟨hkeep, hdone⟩ := State.runEvent_keepsTransmission hevent (hr.symm.trans h)
    exact ⟨htaken.trans hkeep, hdone.imp (·.trans hbusy) fun he => ⟨rest, by rw [hin, he]⟩⟩
  · cases hr.symm.trans h
    exact ⟨⟨rfl, rfl, rfl, rfl, rfl, List.prefix_rfl, List.suffix_rfl⟩, .inl hbusy⟩

/-! ### Any number of steps -/

/-- No TX_DONE and no reset is among the inputs. -/
def State.noEndListed (s : State) : Prop := ∀ e ∈ s.inputs, e ≠ .txDone ∧ ∀ fifo now, e ≠ .reset fifo now

theorem State.noEndListed.of_suffix (h : s.noEndListed) (ht : t.inputs <:+ s.inputs) : t.noEndListed :=
  fun e he => h e (ht.subset he)

theorem State.noEndListed.not_headIsReset (h : s.noEndListed) : ¬ s.headIsReset := by
  rintro ⟨fifo, now, rest, hin⟩
  exact (h (.reset fifo now) (by simp [hin])).2 fifo now rfl

theorem State.noEndListed.not_headIsTxDone (h : s.noEndListed) : ¬ s.headIsTxDone := by
  rintro ⟨rest, hin⟩
  exact (h .txDone (by simp [hin])).1 rfl

/-- The first of `k + 1` steps and the state it leads to. -/
theorem run_succ_next {M : Host.Core} {k : Nat} {a b : M.State} (h : M.run (k + 1) a = .next b) :
    ∃ c, M.step a = .next c ∧ M.run k c = .next b := by
  rw [Host.Core.run] at h
  split at h
  case h_1 c hstep => exact ⟨c, hstep, h⟩
  case h_2 => cases h
  case h_3 => cases h

/-- A transmission goes on for ever while neither TX_DONE nor a reset is among the inputs (R351). -/
theorem run_keepsTransmission {k : Nat} (htx : s.txc = .active) (hbusy : s.txComplete = false) (hlist : s.noEndListed)
    (h : core.run k s = .next t) : s.KeepsTransmission t ∧ t.txComplete = false := by
  induction k generalizing s with
  | zero =>
    cases h
    exact ⟨.refl _, hbusy⟩
  | succ k ih =>
    obtain ⟨u, hstep, hrun⟩ := run_succ_next h
    obtain ⟨hkeep, hdone⟩ := step_keepsTransmission htx hbusy hlist.not_headIsReset hstep
    obtain ⟨hrest, hlast⟩ := ih (hkeep.txc.trans htx) (hdone.resolve_right hlist.not_headIsTxDone)
      (hlist.of_suffix hkeep.inputs) hrun
    exact ⟨hkeep.trans hrest, hlast⟩

/-- Settles O40: the commands' answers, then one step, then any number of steps by induction on their number. -/
theorem unfinishedTransmissionBlocks : Obligations.UnfinishedTransmissionBlocks := by
  unfold Obligations.UnfinishedTransmissionBlocks
  intro s hconf htx hbusy
  have hsend : s.txc ≠ .idle := by simp [htx]
  refine ⟨(pollDuringTransmission s hconf hsend).2 hbusy,
    fun fc _ => execSendErr_fails hconf (.inl hsend) fc,
    fun _ _ offset => execSendRsp_fails hconf (.inl hsend) offset,
    fun _ _ start _ => execMread_fails hconf (.inr (.inr hsend)) start,
    fun _ addr dePresent hbaud => execConfig_of_sending hbaud hsend addr dePresent, ?_, ?_⟩
  · intro t hstep hreset
    obtain ⟨⟨hc, ht, hbuf, hlen, hrx, ⟨arrived, hfifo⟩, -⟩, hdone⟩ := step_keepsTransmission htx hbusy hreset hstep
    exact ⟨hc.trans hconf, ht.trans htx, hdone, hbuf, hlen, hrx, arrived, hfifo.symm⟩
  · intro k t hlist hrun
    obtain ⟨⟨hc, ht, hbuf, hlen, hrx, -, -⟩, hlast⟩ := run_keepsTransmission htx hbusy hlist hrun
    exact ⟨hc.trans hconf, ht.trans htx, hlast, hbuf, hlen, hrx⟩

end Sys2Proof.Machine
end

section
/-!
The encoding (30_encoding.md): a command row is met by its opcode and its zero bits (R101, R106, R111), so that no two rows
overlap, a reserved word meets none, and the decoder and the encoder undo each other.
-/

namespace Sys2Proof

/-! ### The command rows by their fields -/

theorem append_eq_append_iff {a b : Nat} {x x' : BitVec a} {y y' : BitVec b} : x ++ y = x' ++ y' ↔ x = x' ∧ y = y' := by
  constructor
  · intro h
    have hleft := congrArg (BitVec.extractLsb' b a) h
    have hright := congrArg (BitVec.extractLsb' 0 b) h
    simp only [BitVec.extractLsb'_append_eq_left, BitVec.extractLsb'_append_eq_right] at hleft hright
    exact ⟨hleft, hright⟩
  · rintro ⟨rfl, rfl⟩
    rfl

/-- A word under the mask of an opcode and of `b` low bits has the value that has that opcode and no other bit exactly when
its opcode is that one and its `b` low bits are 0. -/
theorem masked_eq_iff {a b : Nat} (w : BitVec (4 + a + b)) (op : BitVec 4) :
    w &&& (0xF#4 ++ 0#a ++ BitVec.allOnes b) = op ++ 0#a ++ 0#b ↔
      w.extractLsb' (a + b) 4 = op ∧ w.extractLsb' 0 b = 0#b := by
  obtain ⟨hi, mid, lo, rfl⟩ : ∃ (hi : BitVec 4) (mid : BitVec a) (lo : BitVec b), w = hi ++ mid ++ lo :=
    ⟨_, _, _, by rw [BitVec.extractLsb'_append_extractLsb', BitVec.extractLsb'_append_extractLsb']⟩
  have hop : (hi ++ mid ++ lo).extractLsb' (a + b) 4 = hi := by
    rw [BitVec.extractLsb'_append_eq_of_le (by omega), Nat.add_sub_cancel, BitVec.extractLsb'_append_eq_left]
  rw [hop, BitVec.extractLsb'_append_eq_right, BitVec.and_append, BitVec.and_append, BitVec.and_zero, BitVec.and_allOnes,
    show (0xF#4 : BitVec 4) = BitVec.allOnes 4 by decide, BitVec.and_allOnes]
  rw [append_eq_append_iff, append_eq_append_iff, eq_self_iff_true, and_true]

variable {w : CmdWord}

theorem rowConfig_fits : rowConfig.fits w = true ↔ w.extractLsb' 60 4 = 1#4 ∧ w.extractLsb' 0 19 = 0#19 :=
  beq_iff_eq.trans (masked_eq_iff (a := 41) (b := 19) w 1#4)

theorem rowPoll_fits : rowPoll.fits w = true ↔ w.extractLsb' 60 4 = 2#4 ∧ w.extractLsb' 0 60 = 0#60 :=
  beq_iff_eq.trans (masked_eq_iff (a := 0) (b := 60) w 2#4)

theorem rowSendErr_fits : rowSendErr.fits w = true ↔ w.extractLsb' 60 4 = 3#4 ∧ w.extractLsb' 0 44 = 0#44 :=
  beq_iff_eq.trans (masked_eq_iff (a := 16) (b := 44) w 3#4)

theorem rowSendRsp_fits : rowSendRsp.fits w = true ↔ w.extractLsb' 60 4 = 4#4 ∧ w.extractLsb' 0 28 = 0#28 :=
  beq_iff_eq.trans (masked_eq_iff (a := 32) (b := 28) w 4#4)

theorem rowMread_fits : rowMread.fits w = true ↔ w.extractLsb' 60 4 = 5#4 ∧ w.extractLsb' 0 12 = 0#12 :=
  beq_iff_eq.trans (masked_eq_iff (a := 48) (b := 12) w 5#4)

theorem rowMfetch_fits : rowMfetch.fits w = true ↔ w.extractLsb' 60 4 = 6#4 ∧ w.extractLsb' 0 44 = 0#44 :=
  beq_iff_eq.trans (masked_eq_iff (a := 16) (b := 44) w 6#4)

theorem rowCrc_fits : rowCrc.fits w = true ↔ w.extractLsb' 60 4 = 7#4 ∧ w.extractLsb' 0 44 = 0#44 :=
  beq_iff_eq.trans (masked_eq_iff (a := 16) (b := 44) w 7#4)

/-- Each row has an opcode of its own: its place in the table, counted from 1. -/
theorem opcode_of_fits (i : Fin commandRows.length) (h : (commandRows.get i).fits w = true) :
    w.extractLsb' 60 4 = BitVec.ofNat 4 (i + 1) :=
  match i with
  | ⟨0, _⟩ => (rowConfig_fits.1 h).1
  | ⟨1, _⟩ => (rowPoll_fits.1 h).1
  | ⟨2, _⟩ => (rowSendErr_fits.1 h).1
  | ⟨3, _⟩ => (rowSendRsp_fits.1 h).1
  | ⟨4, _⟩ => (rowMread_fits.1 h).1
  | ⟨5, _⟩ => (rowMfetch_fits.1 h).1
  | ⟨6, _⟩ => (rowCrc_fits.1 h).1

/-- Settles O3: a word has one opcode, and the rows' opcodes differ. -/
theorem commandRowsNeverOverlap : Obligations.CommandRowsNeverOverlap := by
  unfold Obligations.CommandRowsNeverOverlap
  intro w i j hi hj
  have hop : BitVec.ofNat 4 (i + 1) = BitVec.ofNat 4 (j + 1) := (opcode_of_fits i hi).symm.trans (opcode_of_fits j hj)
  have hlt : ∀ k : Fin commandRows.length, k.val < 7 := fun k => k.isLt
  have := hlt i
  have := hlt j
  bv_omega

/-- A reserved word is one that no command row admits: R106's bit ranges against R111's masks. -/
theorem isReserved_iff : w.isReserved = true ↔ ∀ r ∈ commandRows, ¬ r.fits w = true := by
  simp only [commandRows, List.forall_mem_cons, List.not_mem_nil, false_implies, implies_true, and_true, rowConfig_fits,
    rowPoll_fits, rowSendErr_fits, rowSendRsp_fits, rowMread_fits, rowMfetch_fits, rowCrc_fits, CmdWord.isReserved]
  split_ifs <;> simp [*]

/-- The decoder reads a reserved word as RESERVED_OP. -/
theorem decodeCommand_of_isReserved (h : w.isReserved = true) : decodeCommand w = .reservedOp w := by
  have hnone := isReserved_iff.1 h
  simp only [commandRows, List.forall_mem_cons] at hnone
  obtain ⟨h1, h2, h3, h4, h5, h6, h7, -⟩ := hnone
  rw [decodeCommand, if_neg h1, if_neg h2, if_neg h3, if_neg h4, if_neg h5, if_neg h6, if_neg h7]



/-! ### Command words: each row's fields, read and joined again -/

theorem decodeCommand_of_rowConfig (h : rowConfig.fits w = true) :
    decodeCommand w = .config (w.extractLsb' 28 32) (w.extractLsb' 20 8) (w.getLsbD 19) := if_pos h

theorem decodeCommand_of_rowPoll (h : rowPoll.fits w = true) : decodeCommand w = .poll := by
  simp [decodeCommand, rowConfig_fits, (rowPoll_fits.1 h).1, h]

theorem decodeCommand_of_rowSendErr (h : rowSendErr.fits w = true) :
    decodeCommand w = .sendErr (w.extractLsb' 52 8) (w.extractLsb' 44 8) := by
  simp [decodeCommand, rowConfig_fits, rowPoll_fits, (rowSendErr_fits.1 h).1, h]

theorem decodeCommand_of_rowSendRsp (h : rowSendRsp.fits w = true) :
    decodeCommand w = .sendRsp (w.extractLsb' 52 8) (w.extractLsb' 44 8) (w.extractLsb' 28 16) := by
  simp [decodeCommand, rowConfig_fits, rowPoll_fits, rowSendErr_fits, (rowSendRsp_fits.1 h).1, h]

theorem decodeCommand_of_rowMread (h : rowMread.fits w = true) :
    decodeCommand w =
      .mread (w.extractLsb' 52 8) (w.extractLsb' 44 8) (w.extractLsb' 28 16) (w.extractLsb' 12 16) := by
  simp [decodeCommand, rowConfig_fits, rowPoll_fits, rowSendErr_fits, rowSendRsp_fits, (rowMread_fits.1 h).1, h]

theorem decodeCommand_of_rowMfetch (h : rowMfetch.fits w = true) : decodeCommand w = .mfetch (w.extractLsb' 44 16) := by
  simp [decodeCommand, rowConfig_fits, rowPoll_fits, rowSendErr_fits, rowSendRsp_fits, rowMread_fits,
    (rowMfetch_fits.1 h).1, h]

theorem decodeCommand_of_rowCrc (h : rowCrc.fits w = true) : decodeCommand w = .crc (w.extractLsb' 44 16) := by
  simp [decodeCommand, rowConfig_fits, rowPoll_fits, rowSendErr_fits, rowSendRsp_fits, rowMread_fits, rowMfetch_fits,
    (rowCrc_fits.1 h).1, h]

theorem ofBool_getLsbD (w : CmdWord) (i : Nat) : BitVec.ofBool (w.getLsbD i) = w.extractLsb' i 1 := by
  apply BitVec.eq_of_getLsbD_eq
  intro j hj
  obtain rfl : j = 0 := by omega
  simp

/-- Neighbouring fields of a word join to one field. -/
theorem fields_join (w : CmdWord) (lo len : Nat) {len' : Nat} :
    w.extractLsb' (lo + len) len' ++ w.extractLsb' lo len = w.extractLsb' lo (len' + len) :=
  BitVec.extractLsb'_append_extractLsb'_eq_extractLsb' rfl

/-- The opcode and the zero bits of the row that a word fits are the ones that the encoder writes. -/
theorem encode_decodeCommand (w : CmdWord) : encode (decodeCommand w) = .command w := by
  unfold decodeCommand
  split_ifs with h1 h2 h3 h4 h5 h6 h7
  · obtain ⟨hop, hlow⟩ := rowConfig_fits.1 h1
    rw [encode, ← hop, ← hlow, ofBool_getLsbD, fields_join w 28 32, fields_join w 20 8, fields_join w 19 1,
      fields_join w 0 19]
    exact congrArg _ BitVec.extractLsb'_eq_self
  · obtain ⟨hop, hlow⟩ := rowPoll_fits.1 h2
    rw [encode, ← hop, ← hlow, fields_join w 0 60]
    exact congrArg _ BitVec.extractLsb'_eq_self
  · obtain ⟨hop, hlow⟩ := rowSendErr_fits.1 h3
    rw [encode, ← hop, ← hlow, fields_join w 52 8, fields_join w 44 8, fields_join w 0 44]
    exact congrArg _ BitVec.extractLsb'_eq_self
  · obtain ⟨hop, hlow⟩ := rowSendRsp_fits.1 h4
    rw [encode, ← hop, ← hlow, fields_join w 52 8, fields_join w 44 8, fields_join w 28 16, fields_join w 0 28]
    exact congrArg _ BitVec.extractLsb'_eq_self
  · obtain ⟨hop, hlow⟩ := rowMread_fits.1 h5
    rw [encode, ← hop, ← hlow, fields_join w 52 8, fields_join w 44 8, fields_join w 28 16, fields_join w 12 16,
      fields_join w 0 12]
    exact congrArg _ BitVec.extractLsb'_eq_self
  · obtain ⟨hop, hlow⟩ := rowMfetch_fits.1 h6
    rw [encode, ← hop, ← hlow, fields_join w 44 16, fields_join w 0 44]
    exact congrArg _ BitVec.extractLsb'_eq_self
  · obtain ⟨hop, hlow⟩ := rowCrc_fits.1 h7
    rw [encode, ← hop, ← hlow, fields_join w 44 16, fields_join w 0 44]
    exact congrArg _ BitVec.extractLsb'_eq_self
  · rfl

/-- The one instruction of a command word whose well-formedness says something is RESERVED_OP. -/
theorem decodeCommand_wellFormed (w : CmdWord) : (decodeCommand w).wellFormed = true := by
  unfold decodeCommand
  split_ifs with h1 h2 h3 h4 h5 h6 h7
  case neg =>
    have hnone : ∀ r ∈ commandRows, ¬ r.fits w = true := by simp [commandRows, *]
    exact isReserved_iff.2 hnone
  all_goals rfl

/-! ### Keys of received frames -/

theorem encode_decodeWire (c : WireCase) (key : Word16) : encode (decodeWire c key) = .frame c key := by
  have hkey : wireKey (key.extractLsb' 8 8) (key.extractLsb' 0 8) = key :=
    BitVec.extractLsb'_append_extractLsb' (w := 8) (len := 8)
  cases c with
  | own =>
    simp only [decodeWire]
    split_ifs with h3 h4
    · rw [encode, ← h3, hkey]
    · rw [encode, ← h4, hkey]
    · rw [encode, hkey]
  | awaited =>
    simp only [decodeWire]
    split_ifs with h3 h4
    · rw [encode, ← h3, hkey]
    · rw [encode, ← h4, hkey]
    · rw [encode, hkey]
    · rw [encode, hkey]
  | foreign => rw [decodeWire, encode, hkey]

theorem decodeWire_wellFormed (c : WireCase) (key : Word16) : (decodeWire c key).wellFormed = true := by
  cases c with
  | own =>
    simp only [decodeWire]
    split_ifs with h3 h4
    · rfl
    · rfl
    · simp [Instr.wellFormed, h3, h4]
  | awaited =>
    simp only [decodeWire]
    split_ifs with h3 h4 hmsb
    · rfl
    · rfl
    · exact hmsb
    · simp [Instr.wellFormed, h3, h4, hmsb]
  | foreign => rfl

/-- Settles O2: command words row by row, and keys case by case. -/
theorem encodeUndoesDecode : Obligations.EncodeUndoesDecode := by
  unfold Obligations.EncodeUndoesDecode
  intro e
  cases e with
  | command w => exact ⟨encode_decodeCommand w, decodeCommand_wellFormed w⟩
  | frame c key => exact ⟨encode_decodeWire c key, decodeWire_wellFormed c key⟩

/-! ### From the encoder to the decoder -/

theorem ofBool_inj : ∀ {p q : Bool}, BitVec.ofBool p = BitVec.ofBool q → p = q := by decide

/-- The fields that the decoder reads are the ones that were joined, since joining them again gives the same word. -/
theorem decodeCommand_config (baud : BitVec 32) (addr : Byte) (dp : Bool) :
    decodeCommand (0x1#4 ++ baud ++ addr ++ BitVec.ofBool dp ++ 0#19) = .config baud addr dp := by
  have hjoin := encode_decodeCommand (0x1#4 ++ baud ++ addr ++ BitVec.ofBool dp ++ 0#19)
  rw [decodeCommand_of_rowConfig (Laws.MatchesRow.config baud addr dp rfl)] at hjoin ⊢
  have hfields := Encoding.command.inj hjoin
  rw [append_eq_append_iff, append_eq_append_iff, append_eq_append_iff, append_eq_append_iff] at hfields
  obtain ⟨⟨⟨⟨-, hbaud⟩, haddr⟩, hdp⟩, -⟩ := hfields
  rw [hbaud, haddr, ofBool_inj hdp]

theorem decodeCommand_sendErr (fc kind : Byte) :
    decodeCommand (0x3#4 ++ fc ++ kind ++ 0#44) = .sendErr fc kind := by
  have hjoin := encode_decodeCommand (0x3#4 ++ fc ++ kind ++ 0#44)
  rw [decodeCommand_of_rowSendErr (Laws.MatchesRow.sendErr fc kind rfl)] at hjoin ⊢
  have hfields := Encoding.command.inj hjoin
  rw [append_eq_append_iff, append_eq_append_iff, append_eq_append_iff] at hfields
  obtain ⟨⟨⟨-, hfc⟩, hkind⟩, -⟩ := hfields
  rw [hfc, hkind]

theorem decodeCommand_sendRsp (fc length : Byte) (offset : Word16) :
    decodeCommand (0x4#4 ++ fc ++ length ++ offset ++ 0#28) = .sendRsp fc length offset := by
  have hjoin := encode_decodeCommand (0x4#4 ++ fc ++ length ++ offset ++ 0#28)
  rw [decodeCommand_of_rowSendRsp (Laws.MatchesRow.sendRsp fc length offset rfl)] at hjoin ⊢
  have hfields := Encoding.command.inj hjoin
  rw [append_eq_append_iff, append_eq_append_iff, append_eq_append_iff, append_eq_append_iff] at hfields
  obtain ⟨⟨⟨⟨-, hfc⟩, hlength⟩, hoffset⟩, -⟩ := hfields
  rw [hfc, hlength, hoffset]

theorem decodeCommand_mread (node fc : Byte) (start count : Word16) :
    decodeCommand (0x5#4 ++ node ++ fc ++ start ++ count ++ 0#12) = .mread node fc start count := by
  have hjoin := encode_decodeCommand (0x5#4 ++ node ++ fc ++ start ++ count ++ 0#12)
  rw [decodeCommand_of_rowMread (Laws.MatchesRow.mread node fc start count rfl)] at hjoin ⊢
  have hfields := Encoding.command.inj hjoin
  rw [append_eq_append_iff, append_eq_append_iff, append_eq_append_iff, append_eq_append_iff, append_eq_append_iff]
    at hfields
  obtain ⟨⟨⟨⟨⟨-, hnode⟩, hfc⟩, hstart⟩, hcount⟩, -⟩ := hfields
  rw [hnode, hfc, hstart, hcount]

theorem decodeCommand_mfetch (n : Word16) : decodeCommand (0x6#4 ++ n ++ 0#44) = .mfetch n := by
  have hjoin := encode_decodeCommand (0x6#4 ++ n ++ 0#44)
  rw [decodeCommand_of_rowMfetch (Laws.MatchesRow.mfetch n rfl)] at hjoin ⊢
  have hfields := Encoding.command.inj hjoin
  rw [append_eq_append_iff, append_eq_append_iff] at hfields
  obtain ⟨⟨-, hn⟩, -⟩ := hfields
  rw [hn]

theorem decodeCommand_crc (n : Word16) : decodeCommand (0x7#4 ++ n ++ 0#44) = .crc n := by
  have hjoin := encode_decodeCommand (0x7#4 ++ n ++ 0#44)
  rw [decodeCommand_of_rowCrc (Laws.MatchesRow.crc n rfl)] at hjoin ⊢
  have hfields := Encoding.command.inj hjoin
  rw [append_eq_append_iff, append_eq_append_iff] at hfields
  obtain ⟨⟨-, hn⟩, -⟩ := hfields
  rw [hn]

/-- The decoder reads back the two bytes of a key. -/
theorem decodeWire_own (a f : Byte) :
    decodeWire .own (wireKey a f) =
      if f = 3#8 then .wireReqReadHolding a else if f = 4#8 then .wireReqReadInput a else .wireReqOther a f := by
  simp only [decodeWire, wireKey, BitVec.extractLsb'_append_eq_left, BitVec.extractLsb'_append_eq_right]

theorem decodeWire_awaited (a f : Byte) :
    decodeWire .awaited (wireKey a f) =
      if f = 3#8 then .wireRspReadHolding a else if f = 4#8 then .wireRspReadInput a
      else if f.msb then .wireExc a f else .wireRspOther a f := by
  simp only [decodeWire, wireKey, BitVec.extractLsb'_append_eq_left, BitVec.extractLsb'_append_eq_right]

theorem decodeWire_foreign (a f : Byte) : decodeWire .foreign (wireKey a f) = .wireForeign a f := by
  simp only [decodeWire, wireKey, BitVec.extractLsb'_append_eq_left, BitVec.extractLsb'_append_eq_right]

/-- A function byte with bit 7 set is not a served one. -/
theorem not_served_of_msb {f : Byte} (h : f.msb = true) : f ≠ 3#8 ∧ f ≠ 4#8 := by
  constructor
  · rintro rfl
    exact absurd h (by decide)
  · rintro rfl
    exact absurd h (by decide)

/-- Settles O1: the commands by their fields, RESERVED_OP and the frame classes by what their well-formedness says. -/
theorem decodeUndoesEncode : Obligations.DecodeUndoesEncode := by
  unfold Obligations.DecodeUndoesEncode
  intro i hwf
  cases i with
  | config baud addr dp => exact decodeCommand_config baud addr dp
  | poll => exact decodeCommand_of_rowPoll (Laws.MatchesRow.poll rfl)
  | sendErr fc kind => exact decodeCommand_sendErr fc kind
  | sendRsp fc length offset => exact decodeCommand_sendRsp fc length offset
  | mread node fc start count => exact decodeCommand_mread node fc start count
  | mfetch n => exact decodeCommand_mfetch n
  | crc n => exact decodeCommand_crc n
  | reservedOp w => exact decodeCommand_of_isReserved hwf
  | wireReqReadHolding a => exact decodeWire_own a 3#8
  | wireReqReadInput a => exact decodeWire_own a 4#8
  | wireReqOther a f =>
    have hf : f ≠ 3#8 ∧ f ≠ 4#8 := by simpa [Instr.wellFormed] using hwf
    exact (decodeWire_own a f).trans (by simp [hf])
  | wireRspReadHolding a => exact decodeWire_awaited a 3#8
  | wireRspReadInput a => exact decodeWire_awaited a 4#8
  | wireExc a f =>
    have hmsb : f.msb = true := hwf
    exact (decodeWire_awaited a f).trans (by simp [not_served_of_msb hmsb, hmsb])
  | wireRspOther a f =>
    have hf : (f ≠ 3#8 ∧ f ≠ 4#8) ∧ f.msb = false := by simpa [Instr.wellFormed] using hwf
    exact (decodeWire_awaited a f).trans (by simp [hf])
  | wireForeign a f => exact decodeWire_foreign a f

/-! ### Reserved words, and the words of the spec -/

/-- Settles O4: a reserved word decodes to RESERVED_OP, whose meaning writes the response only. -/
theorem reservedWordIsAnsweredWithoutEffect : Obligations.ReservedWordIsAnsweredWithoutEffect := by
  unfold Obligations.ReservedWordIsAnsweredWithoutEffect
  intro w s hw
  have hdecode := decodeCommand_of_isReserved hw
  exact ⟨hdecode, by rw [hdecode]; rfl⟩

/-- Settles O5, by running the decoder on each word. -/
theorem specWordsDecode : Obligations.SpecWordsDecode := by
  unfold Obligations.SpecWordsDecode
  decide

end Sys2Proof
end

section
/-!
What an accepted command can do (46_config_and_environment.md R261), said once for the rules of the whole machine: it
configures the block, it is a POLL, it starts a send, it copies to `dst`, or it writes the response only.
-/

namespace Sys2Proof.Machine

variable {s t : State}

/-- The state in which a send builds its frame: the slave's commands clear `resp_avail` (43_slave_responder.md R204, R208),
SEND_RSP draws its free values (log entry 7), and MREAD flushes the FIFO and sets the marker (44_master_requester.md R223,
R225). -/
inductive State.Prepares (s : State) : Starter → State → Prop
  | sendErr : s.Prepares .sendErr (s.setRespAvail false)
  | sendRsp : s.Prepares .sendRsp (s.draw.setRespAvail false)
  | mread (node : Byte) : s.Prepares .mread (s.rxFlush.setMarker node)

/-- What an accepted command word does to a state. -/
inductive CommandEffect (s : State) (w : CmdWord) : State → Prop
  | config {baud : BitVec 32} {addr : Byte} {dePresent : Bool} (hw : decodeCommand w = .config baud addr dePresent)
      (hbaud : baud ≠ 0#32) (hidle : s.txc = .idle) :
      CommandEffect s w ((s.setConfig baud addr dePresent).resetEngine.returnValue 0#16)
  | poll {t : State} (hw : w = 0x2000000000000000#64) (h : execPoll s = .next t) : CommandEffect s w t
  | send {who : Starter} {ready : State} {body : List Byte} (hready : s.Prepares who ready) (hconf : s.configured = true)
      (hidle : s.txc = .idle) (hrx : s.rxActive = false) (hbody : 3 ≤ body.length)
      (hroom : body.length + 2 ≤ s.params.capacity) (hresp : ready.respAvail = true → 7 ≤ body.length + 2) :
      CommandEffect s w ((ready.buildFrame body).startSend who)
  | fetch {bytes : List Byte} (v : Word16) (hlen : bytes.length ≤ 255) :
      CommandEffect s w (State.returnValue { s with dst := s.dst.writeBytes 0 bytes } v)
  | answer (ok : Bool) (v : Word16) : CommandEffect s w (s.respond ok 0#4 v)

theorem exec_decodeCommand_effect {w : CmdWord} (h : exec (decodeCommand w) s = .next t) : CommandEffect s w t := by
  obtain ⟨b, a, d, hw⟩ | ⟨rfl, hw⟩ | ⟨fc, k, hw⟩ | ⟨fc, l, o, hw⟩ | ⟨n, fc, st, c, hw⟩ | ⟨n, hw⟩ | ⟨n, hw⟩ | hw :=
    decodeCommand_cases w <;> rw [hw] at h
  · obtain ⟨hbaud, hidle, rfl⟩ := execConfig_next h
    exact .config hw hbaud hidle
  · exact .poll rfl h
  · obtain ⟨hconf, rfl | ⟨hidle, hrx, hroom, x, rfl⟩⟩ := execSendErr_next h
    · exact .answer false 0#16
    · exact .send .sendErr hconf hidle hrx (Nat.le_refl 3) hroom nofun
  · obtain ⟨hconf, rfl | ⟨hidle, hrx, hroom, rfl⟩⟩ := execSendRsp_next h
    · exact .answer false 0#16
    · refine .send .sendRsp hconf hidle hrx ?_ ?_ nofun
      · exact Nat.le_add_left 3 _
      · rw [length_responseBody, State.length_payload]
        exact hroom
  · obtain ⟨hconf, rfl | ⟨hidle, hrx, hroom, rfl⟩⟩ := execMread_next h
    · exact .answer false 0#16
    · exact .send (.mread n) hconf hidle hrx (show 3 ≤ 6 by decide) hroom fun _ => show 7 ≤ 8 by decide
  · obtain ⟨-, -, rfl | ⟨-, -, hlen, rfl⟩⟩ := execMfetch_next h
    · exact .answer true 0#16
    · refine .fetch _ ?_
      rw [State.length_bufBytes, hlen]
      exact Nat.le_of_lt_succ (s.bufByte 2).isLt
  · obtain ⟨-, -, -, -, rfl⟩ := execCrc_next h
    exact .answer true _
  · cases h
    exact .answer false 0#16

end Sys2Proof.Machine
end

section
/-!
The invariant (10_state.md R33 and the rules it rests on): it holds after reset, and every operation of the model, every
command and every step keeps it.
-/

namespace Sys2Proof.Machine

variable {s t : State}

/-! ### Reset -/

/-- After reset only the parameters, the host's memories and the inputs have something to satisfy. -/
theorem inv_powerOn (hcap : Config.capacityMin ≤ s.params.capacity ∧ s.params.capacity ≤ Config.capacityMax)
    (hpl : s.pl.wf ∧ ∀ p ∈ s.pl, p.1 ≤ 65535 + 254) (hdst : s.dst.wf ∧ ∀ p ∈ s.dst, p.1 ≤ 254)
    (hin : ∀ e ∈ s.inputs, e.wf) (fifo : List Byte) (now : Nat) : Inv (s.powerOn fifo now) where
  capacity := hcap
  bufWf := Memory.nil_wf
  bufBound := nofun
  bufWritten := nofun
  plWf := hpl.1
  plBound := hpl.2
  dstWf := hdst.1
  dstBound := hdst.2
  inputsWf := hin
  notBoth := fun _ => rfl
  lenBound := Nat.zero_le _
  respLen := nofun
  overflowFull := nofun
  driver := nofun
  inProgress := rfl
  unconfigured := fun _ => ⟨rfl, rfl, rfl, rfl⟩
  timing := nofun
  received := nofun
  lastStamp := Nat.zero_le _
  deStamp := nofun
  reqStamp := nofun
  busyActive := nofun
  activeTx := nofun
  status := Nat.zero_le _

theorem Inv.powerOn (h : Inv s) (fifo : List Byte) (now : Nat) : Inv (s.powerOn fifo now) :=
  inv_powerOn h.capacity ⟨h.plWf, h.plBound⟩ ⟨h.dstWf, h.dstBound⟩ h.inputsWf fifo now

/-- Settles O43: State.reset is what a reset makes of it. -/
theorem resetMeetsTheInvariant : Obligations.ResetMeetsTheInvariant :=
  inv_powerOn (s := State.reset) (by decide) ⟨Memory.nil_wf, nofun⟩ ⟨Memory.nil_wf, nofun⟩ nofun [] 0

/-! ### Operations that touch few of its clauses -/

theorem Inv.respond (h : Inv s) (ok : Bool) {status : BitVec 4} (hs : status.toNat ≤ 10) (v : Word16) :
    Inv (s.respond ok status v) := { h with status := hs }

theorem Inv.clearMarker (h : Inv s) : Inv s.clearMarker :=
  { h with
    reqStamp := nofun
    unconfigured := fun hc =>
      have ⟨htx, hrx, _, hresp⟩ := h.unconfigured hc
      ⟨htx, hrx, rfl, hresp⟩ }

theorem Inv.setMarker (h : Inv s) (hconf : s.configured = true) (node : Byte) : Inv (s.setMarker node) :=
  { h with
    reqStamp := fun _ => Nat.le_refl _
    unconfigured := fun hc => absurd (hconf.symm.trans hc) (by decide) }

theorem Inv.clearRespAvail (h : Inv s) : Inv (s.setRespAvail false) :=
  { h with
    respLen := nofun
    unconfigured := fun hc =>
      have ⟨htx, hrx, hawait, _⟩ := h.unconfigured hc
      ⟨htx, hrx, hawait, rfl⟩ }

/-- A response is made available only of a frame of 7 bytes at least, in a configured block. -/
theorem Inv.setRespAvail (h : Inv s) (hconf : s.configured = true) (hlen : 7 ≤ s.len) : Inv (s.setRespAvail true) :=
  { h with
    respLen := fun _ => hlen
    unconfigured := fun hc => absurd (hconf.symm.trans hc) (by decide) }

theorem Inv.endReceive (h : Inv s) : Inv s.endReceive :=
  { h with
    notBoth := fun _ => rfl
    overflowFull := fun ho => (h.overflowFull ho).imp_right fun ⟨_, hframe⟩ => ⟨rfl, hframe⟩
    received := nofun
    unconfigured := fun hc =>
      have ⟨htx, _, hawait, hresp⟩ := h.unconfigured hc
      ⟨htx, rfl, hawait, hresp⟩ }

theorem Inv.rxFlush (h : Inv s) : Inv s.rxFlush := { h with }

theorem Inv.draw (h : Inv s) : Inv s.draw := { h with }

theorem Inv.rxByte (h : Inv s) (b : Byte) : Inv (s.rxByte b) := { h with }

theorem Inv.withFifo (h : Inv s) (fifo : List Byte) : Inv { s with rxFifo := fifo } := { h with }

theorem Inv.stampLast (h : Inv s) : Inv s.stampLast := { h with lastStamp := Nat.le_refl _ }

/-- The clock only moves away from the time stamps. -/
theorem Inv.advance (h : Inv s) (d : Nat) : Inv (s.advance d) :=
  { h with
    lastStamp := Nat.le_add_right_of_le h.lastStamp
    deStamp := fun htx => Nat.le_add_right_of_le (h.deStamp htx)
    reqStamp := fun hawait => (h.reqStamp hawait).trans (Nat.div_le_div_right (Nat.le_add_right _ _)) }

theorem Inv.idleTick (h : Inv s) : Inv s.idleTick := (h.advance _).draw

theorem Inv.taken (h : Inv s) {e : Input} {rest : List Input} (hin : s.inputs = e :: rest) :
    Inv { s with inputs := rest } :=
  { h with inputsWf := fun e' he => h.inputsWf e' (hin ▸ List.mem_cons_of_mem e he) }

theorem Inv.accepted (h : Inv s) {w : CmdWord} {payload : Memory} {rest : List Input}
    (hin : s.inputs = .command w payload :: rest) : Inv (s.accepted payload rest) :=
  have ⟨hwf, hbound⟩ : Input.wf (.command w payload) := h.inputsWf _ (hin ▸ List.mem_cons_self)
  { h.taken hin with
    plWf := hwf
    plBound := hbound }

theorem Inv.not_busy_of_idle (h : Inv s) (hidle : s.txc = .idle) : ¬ s.txBusy = true := fun hbusy =>
  absurd (hidle.symm.trans (h.busyActive hbusy).1) (by decide)

theorem Inv.de_eq_false_of_idle (h : Inv s) (hidle : s.txc = .idle) : ¬ s.de = true := fun hde => by
  obtain ⟨-, hsettle | hactive⟩ := h.driver hde
  · exact absurd (hidle.symm.trans hsettle) (by decide)
  · exact absurd (hidle.symm.trans hactive) (by decide)

theorem Inv.txDone (h : Inv s) : Inv { s with txBusy := false, txComplete := true } :=
  { h with
    busyActive := nofun
    activeTx := fun _ => .inr rfl }

/-! ### CONFIG and MFETCH -/

theorem Inv.config (h : Inv s) (hidle : s.txc = .idle) {baud : BitVec 32} (hbaud : baud ≠ 0#32) (addr : Byte)
    (dePresent : Bool) : Inv (s.setConfig baud addr dePresent).resetEngine :=
  { h with
    bufWritten := nofun
    notBoth := nofun
    lenBound := Nat.zero_le _
    respLen := nofun
    overflowFull := nofun
    driver := nofun
    inProgress := h.inProgress.trans (State.waiting_eq_false.2 (.inl hidle))
    unconfigured := nofun
    timing := fun _ => ⟨hbaud, rfl, rfl⟩
    received := nofun
    lastStamp := Nat.zero_le _
    deStamp := nofun
    reqStamp := nofun
    busyActive := fun hbusy => absurd hbusy (h.not_busy_of_idle hidle)
    activeTx := nofun }

/-- MFETCH copies at most 255 bytes, to the addresses from 0. -/
theorem Inv.fetch (h : Inv s) {bytes : List Byte} (hlen : bytes.length ≤ 255) :
    Inv { s with dst := s.dst.writeBytes 0 bytes } :=
  { h with
    dstWf := Memory.writeBytes_wf h.dstWf 0 bytes
    dstBound := fun p hp => by
      obtain ⟨-, hlt⟩ | hold := Memory.mem_writeBytes hp
      · omega
      · exact h.dstBound p hold }

/-! ### Building and starting a frame -/

theorem Memory.read?_writeBytes_isSome {m : Memory} {a i : Nat} {bs : List Byte} (hi : a ≤ i ∧ i < a + bs.length) :
    (Memory.read? (m.writeBytes a bs) i).isSome = true := by
  have hlt : i - a < bs.length := by omega
  rw [Memory.read?_writeBytes, if_pos hi, List.getElem?_eq_getElem hlt, Option.isSome_some]

/-- A built frame is written up to its end. -/
theorem State.read?_buildFrame_isSome (s : State) {body : List Byte} {i : Nat} (hi : i < body.length + 2) :
    ((s.buildFrame body).buf.read? i).isSome = true := by
  rw [State.buildFrame_buf]
  by_cases hbody : i < body.length
  · rw [Memory.read?_writeBytes, if_neg (by omega)]
    exact Memory.read?_writeBytes_isSome (by omega)
  · exact Memory.read?_writeBytes_isSome (by simp only [List.length_cons, List.length_nil]; omega)

theorem State.mem_buildFrame {body : List Byte} {p : Host.Cell} (hp : p ∈ (s.buildFrame body).buf) :
    p.1 < body.length + 2 ∨ p ∈ s.buf := by
  rw [State.buildFrame_buf] at hp
  obtain ⟨-, hlt⟩ | hp := Memory.mem_writeBytes hp
  · exact .inl hlt
  · obtain ⟨-, hlt⟩ | hp := Memory.mem_writeBytes hp
    · exact .inl (by omega)
    · exact .inr hp

/-- Starting a send in an idle configured block that is not receiving: the frame fills `buf` up to its new `len`, and is the
built frame that the overflow flag may outlive (log entry 13). -/
theorem Inv.send (h : Inv s) (hconf : s.configured = true) (hidle : s.txc = .idle) (hrx : s.rxActive = false)
    {body : List Byte} (hbody : 3 ≤ body.length) (hroom : body.length + 2 ≤ s.params.capacity)
    (hresp : s.respAvail = true → 7 ≤ body.length + 2) (who : Starter) : Inv ((s.buildFrame body).startSend who) :=
  { h with
    bufWf := by
      rw [State.startSend_buf, State.buildFrame_buf]
      exact Memory.writeBytes_wf (Memory.writeBytes_wf h.bufWf _ _) _ _
    bufBound := fun p hp => by
      obtain hlt | hold := State.mem_buildFrame hp
      · exact hlt.trans_le hroom
      · exact h.bufBound p hold
    bufWritten := fun i hi => s.read?_buildFrame_isSome hi
    notBoth := fun _ => hrx
    lenBound := hroom
    respLen := hresp
    overflowFull := fun _ => .inr ⟨hrx, Nat.add_le_add_right hbody 2, State.claimedCrc_buildFrame body⟩
    driver := fun hde => absurd hde (h.de_eq_false_of_idle hidle)
    inProgress := rfl
    unconfigured := fun hc => absurd (hconf.symm.trans hc) (by decide)
    received := fun hr => absurd (hrx.symm.trans hr) (by decide)
    deStamp := nofun
    busyActive := fun hbusy => absurd hbusy (h.not_busy_of_idle hidle)
    activeTx := nofun }

theorem Inv.prepares (h : Inv s) (hconf : s.configured = true) {who : Starter} {ready : State}
    (hready : s.Prepares who ready) : Inv ready := by
  cases hready with
  | sendErr => exact h.clearRespAvail
  | sendRsp => exact h.draw.clearRespAvail
  | mread node => exact h.rxFlush.setMarker hconf node

/-- A prepared state differs in none of what a send needs. -/
theorem State.Prepares.keeps {who : Starter} {ready : State} (hready : s.Prepares who ready) :
    ready.params = s.params ∧ ready.configured = s.configured ∧ ready.txc = s.txc ∧ ready.rxActive = s.rxActive := by
  cases hready with
  | sendErr => exact ⟨rfl, rfl, rfl, rfl⟩
  | sendRsp => exact ⟨rfl, rfl, rfl, rfl⟩
  | mread node => exact ⟨rfl, rfl, rfl, rfl⟩

/-! ### Receiving -/

/-- A received byte is appended in order, or the buffer is full and the flag says so. -/
theorem Inv.appendByte (h : Inv s) (hrx : s.rxActive = true) (b : Byte) : Inv (s.appendByte b) := by
  by_cases hroom : s.len < s.params.capacity
  · rw [State.appendByte_of_room s b hroom]
    exact { h with
      bufWf := Memory.write_wf h.bufWf _ _
      bufBound := fun p hp => by
        obtain rfl | hold := Memory.mem_write hp
        · exact hroom
        · exact h.bufBound p hold
      bufWritten := fun i hi => by
        rw [Memory.read?_write]
        split_ifs with hlast
        · rfl
        · exact h.bufWritten i (by simp only at hi; omega)
      lenBound := hroom
      respLen := fun hresp => Nat.le_succ_of_le (h.respLen hresp)
      overflowFull := fun ho => by
        obtain hfull | ⟨hidle, -⟩ := h.overflowFull ho
        · exact absurd hfull hroom.ne
        · exact absurd (hidle.symm.trans hrx) (by decide)
      received := fun _ => Nat.le_add_left 1 _ }
  · rw [State.appendByte_of_full s b hroom]
    exact { h with overflowFull := fun _ => .inl (Nat.le_antisymm h.lenBound (Nat.not_lt.1 hroom)) }

theorem State.appendByte_rxActive (b : Byte) : (s.appendByte b).rxActive = s.rxActive := by
  rw [State.appendByte_eq]

theorem Inv.drain (h : Inv s) (hrx : s.rxActive = true) (bs : List Byte) : Inv (s.drain bs) := by
  induction bs generalizing s with
  | nil => exact h.withFifo []
  | cons b bs ih => exact ih ((h.withFifo bs).appendByte hrx b) (State.appendByte_rxActive b |>.trans hrx)

/-- The first byte of a new frame always finds room. -/
theorem Inv.beginFrame_appendByte (h : Inv s) (hconf : s.configured = true) (hidle : s.txc = .idle) (b : Byte) :
    Inv (s.beginFrame.appendByte b) := by
  have hroom : 0 < s.params.capacity := Nat.lt_of_lt_of_le (by decide) h.capacity.1
  rw [State.appendByte_of_room s.beginFrame b hroom]
  exact { h with
    bufWf := Memory.write_wf h.bufWf _ _
    bufBound := fun p hp => by
      obtain rfl | hold := Memory.mem_write hp
      · exact hroom
      · exact h.bufBound p hold
    bufWritten := fun i hi => by
      obtain rfl : i = 0 := Nat.lt_one_iff.1 hi
      rw [Memory.read?_write]
      rfl
    notBoth := fun hsend => absurd hidle (State.sending_eq_true.1 hsend)
    lenBound := hroom
    respLen := nofun
    overflowFull := nofun
    unconfigured := fun hc => absurd (hconf.symm.trans hc) (by decide)
    received := fun _ => Nat.le_refl 1 }

/-! ### POLL -/

theorem Inv.pollReceive (h : Inv s) (hconf : s.configured = true) (hidle : s.txc = .idle) (hfifo : s.rxFifo ≠ []) :
    Inv s.pollReceive := by
  have hdrained : Inv ((if s.rxActive then s else s.beginFrame).drain s.rxFifo) := by
    split_ifs with hrx
    · exact h.drain hrx _
    · obtain ⟨b, bs, hbs⟩ := List.exists_cons_of_ne_nil hfifo
      rw [hbs]
      exact ((h.withFifo bs).beginFrame_appendByte hconf hidle b).drain (State.appendByte_rxActive b) bs
  exact hdrained.stampLast.respond true (by decide) 0#16

theorem PollStatus.code_le (p : PollStatus) : p.code.toNat ≤ 10 := by cases p <;> decide

theorem Inv.returnStatus (h : Inv s) (p : PollStatus) : Inv (s.returnStatus p) := h.respond true p.code_le 0#16

/-- The send is finalized: the transmitter is no longer busy, and the driver is released if it was enabled. -/
theorem Inv.pollSending (h : Inv s) (hwait : s.waiting = false) : Inv s.pollSending := by
  cases hdone : s.txComplete with
  | false =>
    rw [State.pollSending_of_incomplete hdone]
    exact h.returnStatus .frameSending
  | true =>
    rw [State.pollSending_of_complete hdone]
    have hde : ¬ (if s.dePresent = true then false else s.de) = true := by
      split_ifs with hpin
      · decide
      · exact fun hde => hpin (h.driver hde).1
    exact { h with
      notBoth := nofun
      driver := fun hd => absurd hd hde
      inProgress := h.inProgress.trans hwait
      unconfigured := fun hc => ⟨rfl, (h.unconfigured hc).2⟩
      deStamp := nofun
      busyActive := fun hbusy => absurd (hdone.symm.trans (h.busyActive hbusy).2) (by decide)
      activeTx := nofun
      status := PollStatus.code_le .frameSent }

/-- The result registers are in no clause. -/
theorem Inv.results (h : Inv s) (f : Byte) (start count : Word16) :
    Inv { s with outFunc := f, outStart := start, outCount := count } := { h with }

theorem State.minLen_of_awaiting (h : s.awaitValid = true) : s.minLen = 7 := if_pos h

/-- The dispatch of a frame of the minimum length, no longer being received, in an idle configured block. -/
theorem Inv.dispatchFrame (h : Inv s) (hconf : s.configured = true) (hidle : s.txc = .idle) (hrx : s.rxActive = false)
    (hlen : s.minLen ≤ s.len) (ht : s.dispatchFrame = .next t) : Inv t := by
  obtain ⟨-, -, -, f, rfl⟩ | ⟨-, -, -, -, hroom, rfl⟩ | ⟨hawait, -, rfl⟩ | ⟨-, -, rfl⟩ | rfl := State.dispatchFrame_next ht
  · exact (h.results f _ _).returnStatus .frameReceived
  · exact h.clearRespAvail.send (body := errorBody _ _ _) hconf hidle hrx (Nat.le_refl 3) hroom nofun .poll
  · rw [State.minLen_of_awaiting hawait] at hlen
    exact (h.clearMarker.setRespAvail hconf hlen).returnStatus .masterReceived
  · exact h.clearMarker.returnStatus .masterError
  · exact h.returnStatus .noFrames

theorem Inv.validate (h : Inv s) (hconf : s.configured = true) (hidle : s.txc = .idle) (hrx : s.rxActive = false)
    (ht : s.validate = .next t) : Inv t := by
  obtain ⟨-, rfl⟩ | ⟨-, -, -, rfl⟩ | ⟨hlen, -, -, hd⟩ := State.validate_next ht
  · exact h.clearMarker.returnStatus .errCorrupted
  · exact h.clearMarker.returnStatus .errCrcFailed
  · exact h.dispatchFrame hconf hidle hrx hlen hd

theorem Inv.poll (h : Inv s) (hwait : s.waiting = false) (ht : execPoll s = .next t) : Inv t := by
  obtain ⟨hconf, ⟨-, rfl⟩ | ⟨-, -, rfl⟩ | ⟨-, -, -, -, rfl⟩ | ⟨-, -, -, -, -, rfl⟩ | ⟨-, -, -, -, -, -, rfl⟩ |
    ⟨hidle, -, -, -, -, -, hv⟩ | ⟨hidle, -, hfifo, rfl⟩⟩ := execPoll_next ht
  · exact h.pollSending hwait
  · exact h.clearMarker.returnStatus _
  · exact h.returnStatus .noFrames
  · exact h.returnStatus .frameReceiving
  · exact h.endReceive.returnStatus .errOverflow
  · exact h.endReceive.validate hconf hidle rfl hv
  · exact h.pollReceive hconf hidle hfifo

/-! ### The kinds of step -/

theorem Inv.command (h : Inv s) (hwait : s.waiting = false) {w : CmdWord} (ht : exec (decodeCommand w) s = .next t) :
    Inv t := by
  cases exec_decodeCommand_effect ht with
  | config hw hbaud hidle => exact (h.config hidle hbaud _ _).respond true (Nat.zero_le _) 0#16
  | poll hw hpoll => exact h.poll hwait hpoll
  | send hready hconf hidle hrx hbody hroom hresp =>
    obtain ⟨hparams, hconf', htx, hrx'⟩ := hready.keeps
    exact (h.prepares hconf hready).send (hconf'.trans hconf) (htx.trans hidle) (hrx'.trans hrx) hbody
      (hparams.symm ▸ hroom) hresp _
  | fetch v hlen => exact (h.fetch hlen).respond true (Nat.zero_le _) v
  | answer ok v => exact h.respond ok (Nat.zero_le _) v

/-- A block whose controller waits is configured (R40). -/
theorem Inv.configured_of_not_idle (h : Inv s) (htx : s.txc ≠ .idle) : s.configured = true := by
  cases hconf : s.configured with
  | true => rfl
  | false => exact absurd (h.unconfigured hconf).1 htx

theorem Inv.enableDriver (h : Inv s) (htx : s.txc = .waitSilence) (hpin : s.dePresent = true) : Inv s.enableDriver :=
  have hconf := h.configured_of_not_idle (by simp [htx])
  { h with
    notBoth := fun _ => h.notBoth (State.sending_eq_true.2 (by simp [htx]))
    driver := fun _ => ⟨hpin, .inl rfl⟩
    inProgress := h.inProgress.trans (by simp [State.waiting, htx])
    unconfigured := fun hc => absurd (hconf.symm.trans hc) (by decide)
    deStamp := fun _ => Nat.le_refl _
    busyActive := fun hbusy => absurd (htx.symm.trans (h.busyActive hbusy).1) (by decide)
    activeTx := nofun }

/-- The command in progress answers with a status code of R105, or there is none. -/
theorem State.returnStarter_cases (s : State) :
    s.returnStarter = s ∨ ∃ p : BitVec 4, p.toNat ≤ 10 ∧ s.returnStarter = s.respond true p 0#16 := by
  cases hwho : s.starter with
  | none => exact .inl (by rw [State.returnStarter, hwho])
  | some who =>
    refine .inr ⟨_, ?_, State.returnStarter_of_some hwho⟩
    split_ifs <;> decide

/-- The hand-off ends the wait: the transmitter is busy and no command is in progress. -/
theorem Inv.handOff (h : Inv s) (htx : s.txc = .waitSilence ∨ s.txc = .deSettle) (ht : s.handOff = .next t) : Inv t := by
  obtain ⟨-, rfl⟩ := State.handOff_next ht
  have hsend : s.txc ≠ .idle := by obtain htx | htx := htx <;> simp [htx]
  have hconf := h.configured_of_not_idle hsend
  have hhanded : Inv { (s.txWrite (s.bufBytes 0 s.len)).setTxc .active with starter := none } :=
    { h with
      notBoth := fun _ => h.notBoth (State.sending_eq_true.2 hsend)
      driver := fun hde => ⟨(h.driver hde).1, .inr rfl⟩
      inProgress := rfl
      unconfigured := fun hc => absurd (hconf.symm.trans hc) (by decide)
      deStamp := nofun
      busyActive := fun _ => ⟨rfl, rfl⟩
      activeTx := fun _ => .inl rfl }
  obtain hsame | ⟨p, hp, hresp⟩ := ((s.txWrite (s.bufBytes 0 s.len)).setTxc .active).returnStarter_cases
  · rw [hsame]
    exact hhanded
  · rw [hresp]
    exact hhanded.respond true hp 0#16

theorem Inv.microStep (h : Inv s) (ht : s.microStep = some (.next t)) : Inv t := by
  obtain ⟨htx, -, hpin, hr⟩ | ⟨htx, -, -, hr⟩ | ⟨htx, -, hr⟩ := State.microStep_some ht
  · cases hr
    exact h.enableDriver htx hpin
  · exact h.handOff (.inl htx) hr.symm
  · exact h.handOff (.inr htx) hr.symm

theorem Inv.runEvent (h : Inv s) {e : Input} (ht : s.runEvent e = .next t) : Inv t := by
  obtain ⟨b, -, rfl⟩ | ⟨-, -, rfl⟩ | ⟨d, -, -, rfl⟩ | ⟨fifo, now, -, rfl⟩ | ⟨w, p, -, rfl⟩ := State.runEvent_next ht
  · exact h.rxByte b
  · exact h.txDone
  · exact h.advance d
  · exact h.powerOn fifo now
  · exact h

/-- Settles O44, by the kinds of step. -/
theorem everyStepKeepsTheInvariant : Obligations.EveryStepKeepsTheInvariant := by
  unfold Obligations.EveryStepKeepsTheInvariant
  intro s t h ht
  obtain ⟨r, hm, hr⟩ | ⟨-, w, payload, rest, hin, hwait, hr⟩ | ⟨-, e, rest, hin, -, hr⟩ | ⟨-, -, hr⟩ := step_cases s <;>
    rw [ht] at hr
  · exact h.microStep (hm.trans (congrArg some hr.symm))
  · exact (h.accepted hin).command hwait hr.symm
  · exact (h.taken hin).runEvent hr.symm
  · cases hr
    exact h.idleTick

end Sys2Proof.Machine
end

section
/-!
No access past the buffer's end (20_memory.md R62), and no POLL without an answer (41_frame_assembler.md R150): with a buffer
of 8 bytes at least and `len` within it, every guard lets its operation through.
-/

namespace Sys2Proof.Machine

variable {s t : State}

/-! ### A POLL completes -/

/-- A POLL's outcome: a response with `rsp_ok = 1`, or its own automatic error response in progress. -/
def Result.CompletesPoll (r : Result) : Prop := ∃ t, r = .next t ∧ (t.rspOk = true ∨ t.starter = some .poll)

theorem Result.completesPoll_returnStatus (s : State) (p : PollStatus) :
    Result.CompletesPoll (.next (s.returnStatus p)) := ⟨_, rfl, .inl rfl⟩

theorem Result.completesPoll_ite {c : Prop} [Decidable c] {p q : Result} (hp : c → p.CompletesPoll)
    (hq : ¬ c → q.CompletesPoll) : Result.CompletesPoll (if c then p else q) := by
  split_ifs with h
  · exact hp h
  · exact hq h

theorem State.pollSending_completesPoll (s : State) : Result.CompletesPoll (.next s.pollSending) := by
  cases hdone : s.txComplete with
  | false =>
    rw [State.pollSending_of_incomplete hdone]
    exact Result.completesPoll_returnStatus s .frameSending
  | true =>
    rw [State.pollSending_of_complete hdone]
    exact ⟨_, rfl, .inl rfl⟩

/-- The automatic error response has 5 bytes, and a read request is read up to its byte 5. -/
theorem State.dispatchFrame_completesPoll (hcap : 8 ≤ s.params.capacity) : s.dispatchFrame.CompletesPoll := by
  have hrequest : ∀ f, (s.receiveRequest f).CompletesPoll := fun f =>
    ⟨_, State.receiveRequest_of_room (by omega) f, .inl rfl⟩
  have herror : ∀ f, (s.sendErrorFrame .poll f 0x01#8).CompletesPoll := fun f =>
    ⟨_, State.guardBuf_of_le _ (show 5 ≤ s.params.capacity by omega) _, .inr rfl⟩
  unfold State.dispatchFrame
  dsimp only
  cases s.wireCase (s.bufByte 0) with
  | own =>
    exact Result.completesPoll_ite (fun _ => hrequest 3#8) fun _ =>
      Result.completesPoll_ite (fun _ => hrequest 4#8) fun _ => herror _
  | awaited =>
    exact Result.completesPoll_ite (fun _ => Result.completesPoll_returnStatus _ _) fun _ =>
      Result.completesPoll_ite (fun _ => Result.completesPoll_returnStatus _ _) fun _ =>
      Result.completesPoll_ite (fun _ => Result.completesPoll_returnStatus _ _) fun _ =>
      Result.completesPoll_returnStatus _ _
  | foreign => exact Result.completesPoll_returnStatus _ _

theorem State.validate_completesPoll (hcap : 8 ≤ s.params.capacity) (hlen : s.len ≤ s.params.capacity) :
    s.validate.CompletesPoll := by
  refine Result.completesPoll_ite (fun _ => Result.completesPoll_returnStatus _ _) fun _ => ?_
  rw [State.guardBuf_of_le s hlen]
  exact Result.completesPoll_ite (fun _ => Result.completesPoll_returnStatus _ _) fun _ =>
    State.dispatchFrame_completesPoll hcap

theorem execPoll_completesPoll (hconf : s.configured = true) (hcap : 8 ≤ s.params.capacity)
    (hlen : s.len ≤ s.params.capacity) : (execPoll s).CompletesPoll := by
  refine Result.completesPoll_ite (fun hc => absurd (hconf.symm.trans hc) (by decide)) fun _ =>
    Result.completesPoll_ite (fun _ => s.pollSending_completesPoll) fun _ =>
    Result.completesPoll_ite (fun _ => Result.completesPoll_returnStatus _ _) fun _ =>
    Result.completesPoll_ite (fun _ => ?silent) fun _ => Result.completesPoll_returnStatus _ _
  exact Result.completesPoll_ite (fun _ => Result.completesPoll_returnStatus _ _) fun _ =>
    Result.completesPoll_ite (fun _ => Result.completesPoll_returnStatus _ _) fun _ =>
    Result.completesPoll_ite (fun _ => Result.completesPoll_returnStatus _ _) fun _ =>
    State.validate_completesPoll (s := s.endReceive) hcap hlen

/-- Settles O20, branch by branch of the POLL, the validator and the dispatch. -/
theorem pollAlwaysCompletes : Obligations.PollAlwaysCompletes := by
  unfold Obligations.PollAlwaysCompletes
  intro s hconf hcap hlen
  exact execPoll_completesPoll hconf hcap hlen

/-! ### No step faults -/

/-- An outcome that is no fault. -/
def Result.Faultless (r : Result) : Prop := ∀ f, r ≠ .fault f

theorem Result.faultless_next (t : State) : Result.Faultless (.next t) := nofun

theorem Result.faultless_refused (r : Refusal) : Result.Faultless (.refused r) := nofun

theorem Result.faultless_ite {c : Prop} [Decidable c] {p q : Result} (hp : c → p.Faultless) (hq : ¬ c → q.Faultless) :
    Result.Faultless (if c then p else q) := by
  split_ifs with h
  · exact hp h
  · exact hq h

theorem State.guardBuf_faultless {n : Nat} {k : Result} (hn : n ≤ s.params.capacity) (hk : k.Faultless) :
    (s.guardBuf n k).Faultless := by
  rw [State.guardBuf_of_le s hn]
  exact hk

theorem State.slavePrecheck_faultless {k : Result} (hk : k.Faultless) : (s.slavePrecheck k).Faultless :=
  Result.faultless_ite (fun _ => Result.faultless_refused _) fun _ =>
    Result.faultless_ite (fun _ => Result.faultless_next _) fun _ =>
    Result.faultless_ite (fun _ => Result.faultless_refused _) fun _ => hk

theorem State.sendFrame_faultless {who : Starter} {body : List Byte} (hroom : body.length + 2 ≤ s.params.capacity) :
    (s.sendFrame who body).Faultless := State.guardBuf_faultless hroom (Result.faultless_next _)

theorem execPoll_faultless (hcap : 8 ≤ s.params.capacity) (hlen : s.len ≤ s.params.capacity) :
    (execPoll s).Faultless := by
  by_cases hconf : s.configured = false
  · rw [execPoll, if_pos hconf]
    exact Result.faultless_refused _
  · obtain ⟨t, ht, -⟩ := execPoll_completesPoll (Bool.not_eq_false _ ▸ hconf) hcap hlen
    rw [ht]
    exact Result.faultless_next t

/-- Every index that a command uses lies below its frame's end, which it checks, or below `len`. -/
theorem exec_decodeCommand_faultless (hcap : 8 ≤ s.params.capacity) (hlen : s.len ≤ s.params.capacity) (w : CmdWord) :
    Result.Faultless (exec (decodeCommand w) s) := by
  obtain ⟨b, a, d, hw⟩ | ⟨-, hw⟩ | ⟨fc, k, hw⟩ | ⟨fc, l, o, hw⟩ | ⟨n, fc, st, c, hw⟩ | ⟨n, hw⟩ | ⟨n, hw⟩ | hw :=
    decodeCommand_cases w <;> rw [hw]
  · exact Result.faultless_ite (fun _ => Result.faultless_refused _) fun _ =>
      Result.faultless_ite (fun _ => Result.faultless_refused _) fun _ => Result.faultless_next _
  · exact execPoll_faultless hcap hlen
  · refine State.slavePrecheck_faultless ?_
    cases exceptionByte k with
    | none => exact Result.faultless_next _
    | some x => exact State.sendFrame_faultless (show 5 ≤ s.params.capacity by omega)
  · refine State.slavePrecheck_faultless (Result.faultless_ite (fun _ => Result.faultless_next _) fun _ =>
      Result.faultless_ite (fun _ => Result.faultless_next _) fun hroom => State.sendFrame_faultless ?_)
    rw [length_responseBody, State.length_payload]
    exact (show l.toNat + 3 + 2 ≤ s.params.capacity by omega)
  · exact Result.faultless_ite (fun _ => Result.faultless_refused _) fun _ =>
      Result.faultless_ite (fun _ => Result.faultless_next _) fun _ => State.sendFrame_faultless hcap
  · exact Result.faultless_ite (fun _ => Result.faultless_refused _) fun _ =>
      Result.faultless_ite (fun _ => Result.faultless_refused _) fun _ =>
      Result.faultless_ite (fun _ => Result.faultless_next _) fun _ =>
      State.guardBuf_faultless (by omega) <|
      Result.faultless_ite (fun _ => Result.faultless_next _) fun _ => Result.faultless_next _
  · exact Result.faultless_ite (fun _ => Result.faultless_refused _) fun _ =>
      Result.faultless_ite (fun _ => Result.faultless_refused _) fun _ =>
      Result.faultless_ite (fun _ => Result.faultless_refused _) fun hn =>
      State.guardBuf_faultless (by omega) (Result.faultless_next _)
  · exact Result.faultless_next _

theorem State.microStep_faultless {r : Result} (hlen : s.len ≤ s.params.capacity) (hr : s.microStep = some r) :
    r.Faultless := by
  have hhandOff : s.handOff.Faultless := State.guardBuf_faultless hlen (Result.faultless_next _)
  obtain ⟨-, -, -, rfl⟩ | ⟨-, -, -, rfl⟩ | ⟨-, -, rfl⟩ := State.microStep_some hr
  · exact Result.faultless_next _
  · exact hhandOff
  · exact hhandOff

/-- An event accesses no buffer. -/
theorem State.runEvent_faultless (s : State) (e : Input) : (s.runEvent e).Faultless := by
  cases e with
  | command w payload => exact Result.faultless_next _
  | rxByte b => exact Result.faultless_next _
  | txDone => exact Result.faultless_ite (fun _ => Result.faultless_next _) fun _ => Result.faultless_refused _
  | tick d => exact Result.faultless_ite (fun _ => Result.faultless_refused _) fun _ => Result.faultless_next _
  | reset fifo now => exact Result.faultless_next _

/-- Settles O45, by the kinds of step; of the invariant it needs the buffer's least size and that `len` lies within it. -/
theorem noStepFaults : Obligations.NoStepFaults := by
  unfold Obligations.NoStepFaults
  intro s h
  show Result.Faultless (step s)
  obtain ⟨r, hm, hr⟩ | ⟨-, w, payload, rest, -, -, hr⟩ | ⟨-, e, rest, -, -, hr⟩ | ⟨-, -, hr⟩ := step_cases s <;> rw [hr]
  · exact State.microStep_faultless h.lenBound hm
  · exact exec_decodeCommand_faultless (s := s.accepted payload rest) h.capacity.1 h.lenBound w
  · exact State.runEvent_faultless _ e
  · exact Result.faultless_next _

end Sys2Proof.Machine
end

section
/-!
The commands before CONFIG (10_state.md R40), CONFIG (46_config_and_environment.md R265), CRC (40_crc16.md R135), and the
slave's sends and MFETCH where they do nothing (43_slave_responder.md R200, 44_master_requester.md R227).
-/

namespace Sys2Proof.Machine

variable {s : State}

/-- Settles O12: each command asks first whether the block is configured. -/
theorem commandsBeforeConfigAreRefused : Obligations.CommandsBeforeConfigAreRefused := by
  unfold Obligations.CommandsBeforeConfigAreRefused
  intro s hconf
  have hslave : ∀ k, s.slavePrecheck k = .refused .notConfigured := fun k => if_pos hconf
  exact ⟨if_pos hconf, fun _ _ => hslave _, fun _ _ _ => hslave _, fun _ _ _ _ => if_pos hconf, fun _ => if_pos hconf,
    fun _ => if_pos hconf⟩

/-- An accepted CONFIG. -/
theorem execConfig_of_idle {baud : BitVec 32} (hbaud : baud ≠ 0#32) (hidle : s.txc = .idle) (addr : Byte)
    (dePresent : Bool) :
    execConfig baud addr dePresent s = .next ((s.setConfig baud addr dePresent).resetEngine.returnValue 0#16) := by
  rw [execConfig, if_neg hbaud, if_neg (not_not.2 hidle)]

/-- Settles O10: the two refusals in the order of R265, and the state that an accepted CONFIG leaves. -/
theorem configCommand : Obligations.ConfigCommand := by
  unfold Obligations.ConfigCommand
  intro baud addr dePresent s
  exact ⟨fun hbaud => if_pos hbaud, fun hbaud htx => execConfig_of_sending hbaud htx addr dePresent,
    fun hbaud hidle => execConfig_of_idle hbaud hidle addr dePresent⟩

/-- Settles O9: the three refusals in the order of R135; the CRC output is the bit-serial one. -/
theorem crcCommand : Obligations.CrcCommand := by
  unfold Obligations.CrcCommand
  intro n s
  have hcrc : exec (.crc n) s =
      if s.configured = false then .refused .notConfigured
      else if s.sending then .refused .crcWhileSending
      else if n.toNat > s.len then .refused .crcBeyondLen
      else s.guardBuf n.toNat (.next (s.returnValue (s.crc16 n.toNat))) := rfl
  rw [hcrc]
  refine ⟨fun hconf => if_pos hconf, fun hconf htx => ?_, fun hconf hidle hlong => ?_, fun hconf hidle hlen hcap => ?_⟩
  · rw [if_neg (by simp [hconf]), if_pos (State.sending_eq_true.2 htx)]
  · rw [if_neg (by simp [hconf]), if_neg (by simp [State.sending_eq_false.2 hidle]), if_pos hlong]
  · rw [if_neg (by simp [hconf]), if_neg (by simp [State.sending_eq_false.2 hidle]), if_neg (Nat.not_lt.2 hlen),
      State.guardBuf_of_le s (hlen.trans hcap), State.crc16, crcOutput_eq, State.bufBytes_eq_frameLike]
    rfl

/-- While receiving, the precheck lets no command through. -/
theorem State.slavePrecheck_of_receiving (hconf : s.configured = true) (hidle : s.txc = .idle) (hrx : s.rxActive = true)
    (k : Result) : s.slavePrecheck k = .refused .sendWhileReceiving := by
  simp [State.slavePrecheck, hconf, State.sending_eq_false.2 hidle, hrx]

/-- Settles O31: both slave sends begin with the precheck. -/
theorem slaveSendWhileReceivingIsRefused : Obligations.SlaveSendWhileReceivingIsRefused := by
  unfold Obligations.SlaveSendWhileReceivingIsRefused
  intro fc kind length offset s hconf hidle hrx
  exact ⟨State.slavePrecheck_of_receiving hconf hidle hrx _, State.slavePrecheck_of_receiving hconf hidle hrx _⟩

theorem execMfetch_of_sending (hconf : s.configured = true) (htx : s.txc ≠ .idle) (n : Word16) :
    execMfetch n s = .refused .fetchWhileSending := by
  simp [execMfetch, hconf, State.sending_eq_true.2 htx]

theorem execMfetch_of_no_response (hconf : s.configured = true) (hidle : s.txc = .idle) (havail : s.respAvail = false)
    (n : Word16) : execMfetch n s = .next (s.returnValue 0#16) := by
  simp [execMfetch, hconf, State.sending_eq_false.2 hidle, havail]

/-- Settles O35: the refusal while sending, and the answer when no response is available. -/
theorem mfetchWithoutAResponse : Obligations.MfetchWithoutAResponse := by
  unfold Obligations.MfetchWithoutAResponse
  intro n s hconf
  exact ⟨fun htx => execMfetch_of_sending hconf htx n, fun hidle havail => execMfetch_of_no_response hconf hidle havail n⟩

end Sys2Proof.Machine
end

section
/-!
POLL's branches B2 (41_frame_assembler.md R152) and B4 (R156 to R158).
-/

namespace Sys2Proof.Machine

variable {s : State}

/-- Branch B2. -/
theorem execPoll_of_expired (hconf : s.configured = true) (hidle : s.txc = .idle) (hexp : s.requestExpired) :
    execPoll s = .next s.pollExpired := by
  simp [execPoll, hconf, State.sending_eq_false.2 hidle, State.masterExpired_eq_true.2 hexp]

/-- Branch B4. -/
theorem execPoll_of_bytes (h : s.pollReceives) (hfifo : s.rxFifo ≠ []) : execPoll s = .next s.pollReceive := by
  obtain ⟨hconf, hidle, hexp⟩ := h
  have hmaster : s.masterExpired = false := Bool.eq_false_iff.2 (mt State.masterExpired_eq_true.1 hexp)
  simp [execPoll, hconf, State.sending_eq_false.2 hidle, hmaster, State.rxAvail, hfifo]

/-- Settles O16: an expired request is branch B2; at exactly the timeout it has not expired, and with nothing to receive the
POLL answers in branch B3. -/
theorem pollAbandonsExpiredRequest : Obligations.PollAbandonsExpiredRequest := by
  unfold Obligations.PollAbandonsExpiredRequest
  intro s hconf hidle hawait
  constructor
  · intro hlate
    have hpoll : exec .poll s = .next s.pollExpired := execPoll_of_expired hconf hidle ⟨hawait, hlate⟩
    rw [hpoll, State.pollExpired]
    split_ifs <;> rfl
  · intro hage hfifo hrx
    have hrecv : s.pollReceives := ⟨hconf, hidle, fun hexp => hexp.2.ne' hage⟩
    exact (execPoll_of_no_byte hrecv hfifo).trans (State.pollSilent_of_not_receiving hrx)

/-- The state in which a POLL with bytes available drains the FIFO: a new frame begins unless one is being received. -/
def State.receiving (s : State) : State := if s.rxActive then s else s.beginFrame

theorem State.pollReceive_eq_drain (s : State) :
    s.pollReceive = (s.receiving.drain s.rxFifo).stampLast.returnStatus .frameReceiving := rfl

theorem State.receiving_eq (s : State) :
    s.receiving = { s with
      len := if s.rxActive = true then s.len else 0, overflow := s.rxActive && s.overflow
      respAvail := s.rxActive && s.respAvail, rxActive := true } := by
  unfold State.receiving
  split_ifs with hrx
  · simp only [hrx, Bool.true_and]
    rw [← hrx]
  · simp [State.beginFrame, hrx]

/-- Settles O18: draining appends the bytes that find room to the state in which the frame begins or goes on. -/
theorem pollDrainsTheFifo : Obligations.PollDrainsTheFifo := by
  unfold Obligations.PollDrainsTheFifo
  intro s hrecv hfifo hlen start room kept
  have hstart : s.receiving.len = start := by rw [State.receiving_eq]
  have hcap : s.receiving.params.capacity = s.params.capacity := by rw [State.receiving_eq]
  have hroom : s.receiving.len ≤ s.receiving.params.capacity := by
    rw [hstart, hcap]
    simp only [start]
    split_ifs <;> omega
  have hbyte : ∀ i, s.pollReceive.bufByte i =
      if start ≤ i ∧ i < start + kept.length then s.rxFifo.getD (i - start) 0#8 else s.bufByte i := by
    intro i
    have h := State.bufByte_drain s.receiving s.rxFifo hroom i
    rw [hstart, hcap] at h
    exact h.trans (by rw [State.receiving_eq]; rfl)
  refine ⟨s.pollReceive, execPoll_of_bytes hrecv hfifo, ?_, fun i hi => ?_, fun i hi => ?_⟩
  · rw [State.pollReceive_eq_drain, State.drain_eq _ _ hroom, hstart, hcap]
    generalize (s.receiving.drain s.rxFifo).buf = m
    rw [State.receiving_eq]
    rfl
  · rw [hbyte, if_pos (by omega), Nat.add_sub_cancel_left]
    simp only [kept, List.length_take] at hi
    rw [List.getD_eq_getElem?_getD, List.getD_eq_getElem?_getD, List.getElem?_take_of_lt (by omega)]
  · rw [hbyte, if_neg (by omega)]

end Sys2Proof.Machine
end

section
/-!
The frames that the sends build (30_encoding.md R94): the error response (43_slave_responder.md R203,
42_validator_dispatcher.md R186), the normal response (R207) and the read request (44_master_requester.md R224).
-/

namespace Sys2Proof.Machine

/-- A send whose frame fits builds the given bytes with their CRC after them, leaves the bytes past the frame, and changes
`buf`, `len` and the controller only. -/
theorem State.sendFrame_builds (s : State) (who : Starter) {body : List Byte} (h : body.length + 2 ≤ s.params.capacity) :
    ∃ t, s.sendFrame who body = .next t ∧
      t = { s with buf := t.buf, len := body.length + 2, txc := .waitSilence, starter := some who } ∧
      (∀ i, i < body.length → t.bufByte i = body.getD i 0#8) ∧
      t.endsInCrc body.length ∧ s.sameBufFrom t (body.length + 2) := by
  obtain ⟨t, ht, heq, hbyte⟩ := s.sendFrame_ok who body h
  have hbody : ∀ i, i < body.length → t.bufByte i = body.getD i 0#8 := fun i hi => by rw [hbyte, if_pos hi]
  refine ⟨t, ht, heq, hbody, ?_, fun i hi => ?_⟩
  · rw [State.endsInCrc, State.frameBytes, ← State.bufBytes_eq_frameLike, State.bufBytes_eq t rfl hbody, hbyte, hbyte,
      if_neg (Nat.lt_irrefl _), if_pos rfl, if_neg (by omega), if_neg (by omega), if_pos rfl, cat_hi8_lo8, crcOutput_eq]
  · rw [hbyte, if_neg (by omega), if_neg (by omega), if_neg (by omega)]

/-! ### The error response -/

theorem State.sendErrorFrame_builds (s : State) (who : Starter) (fc x : Byte) (hcap : 8 ≤ s.params.capacity) :
    ∃ t, s.sendErrorFrame who fc x = .next t ∧
      t = { s with buf := t.buf, len := 5, respAvail := false, txc := .waitSilence, starter := some who } ∧
      t.bufByte 0 = s.myAddr ∧ t.bufByte 1 = fc ||| 0x80#8 ∧ t.bufByte 2 = x ∧
      t.endsInCrc 3 ∧ s.sameBufFrom t 5 := by
  have hroom : (errorBody s.myAddr fc x).length + 2 ≤ (s.setRespAvail false).params.capacity :=
    (show 5 ≤ 8 by decide).trans hcap
  obtain ⟨t, ht, heq, hbody, hcrc, hrest⟩ := (s.setRespAvail false).sendFrame_builds who hroom
  have hbyte : ∀ i, i < 3 → t.bufByte i = (errorBody s.myAddr fc x).getD i 0#8 := hbody
  exact ⟨t, ht, heq, hbyte 0 (by decide), hbyte 1 (by decide), hbyte 2 (by decide), hcrc, hrest⟩

/-- Settles O25: the automatic response is the error response with exception byte 1. -/
theorem ownUnservedFunctionIsAnswered : Obligations.OwnUnservedFunctionIsAnswered := by
  unfold Obligations.OwnUnservedFunctionIsAnswered
  intro a f s hcap
  exact s.sendErrorFrame_builds .poll f 0x01#8 hcap

/-- An accepted SEND_ERR sends the error response with its kind's exception byte. -/
theorem execSendErr_of_kind {s : State} {kind : Byte} (hconf : s.configured = true) (hidle : s.txc = .idle)
    (hrx : s.rxActive = false) (hkind : kind = 1#8 ∨ kind = 2#8) (fc : Byte) :
    execSendErr fc kind s = s.sendErrorFrame .sendErr fc (if kind = 1#8 then 0x01#8 else 0x02#8) := by
  rw [execSendErr, State.slavePrecheck_of_idle hconf hidle hrx]
  obtain rfl | rfl := hkind <;> rfl

/-- Settles O28: the error response of the command's kind. -/
theorem sendErrBuildsTheErrorFrame : Obligations.SendErrBuildsTheErrorFrame := by
  unfold Obligations.SendErrBuildsTheErrorFrame
  intro fc kind s hconf hidle hrx hcap hkind
  have hexec : exec (.sendErr fc kind) s = s.sendErrorFrame .sendErr fc (if kind = 1#8 then 0x01#8 else 0x02#8) :=
    execSendErr_of_kind hconf hidle hrx hkind fc
  rw [hexec]
  exact s.sendErrorFrame_builds .sendErr fc _ hcap

/-! ### The normal response -/

theorem servedFunction_eq_true {fc : Byte} : servedFunction fc = true ↔ fc = 3#8 ∨ fc = 4#8 := by simp [servedFunction]

/-- One byte of the payload. -/
theorem State.getD_payload (s : State) (offset : Nat) {n i : Nat} (hi : i < n) :
    (s.payload offset n).getD i 0#8 = (s.pl.read? (offset + i)).getD (Config.payloadByte s.draws (offset + i)) := by
  have hlen : i < (s.payload offset n).length := by rwa [State.length_payload]
  rw [List.getD_eq_getElem?_getD, List.getElem?_eq_getElem hlen]
  simp [State.payload]

/-- An accepted SEND_RSP sends the payload, with the free values of its draw (log entry 7). -/
theorem execSendRsp_of_fits {s : State} {fc length : Byte} (hconf : s.configured = true) (hidle : s.txc = .idle)
    (hrx : s.rxActive = false) (hfc : fc = 3#8 ∨ fc = 4#8) (hroom : length.toNat + 5 ≤ s.params.capacity)
    (offset : Word16) :
    execSendRsp fc length offset s = (s.draw.setRespAvail false).sendFrame .sendRsp
      (responseBody s.myAddr fc length (s.payload offset.toNat length.toNat)) := by
  rw [execSendRsp, State.slavePrecheck_of_idle hconf hidle hrx, if_neg (by simp [servedFunction_eq_true.2 hfc]),
    if_neg (by omega)]

/-- Settles O29: the payload stands behind the three bytes of the header. -/
theorem sendRspBuildsTheResponse : Obligations.SendRspBuildsTheResponse := by
  unfold Obligations.SendRspBuildsTheResponse
  intro fc length offset s hconf hidle hrx hfc hroom
  have hlen : (responseBody s.myAddr fc length (s.payload offset.toNat length.toNat)).length = length.toNat + 3 := by
    rw [length_responseBody, State.length_payload]
  obtain ⟨t, ht, heq, hbody, hcrc, hrest⟩ := (s.draw.setRespAvail false).sendFrame_builds .sendRsp
    (body := responseBody s.myAddr fc length (s.payload offset.toNat length.toNat)) (by rw [hlen]; exact hroom)
  rw [hlen] at heq hbody hcrc hrest
  have hexec : exec (.sendRsp fc length offset) s = .next t :=
    (execSendRsp_of_fits hconf hidle hrx hfc hroom offset).trans ht
  refine ⟨t, hexec, heq, hbody 0 (by omega), hbody 1 (by omega), hbody 2 (by omega), fun i hi => ?_,
    Nat.add_comm 3 _ ▸ hcrc, hrest⟩
  rw [hbody _ (by omega), Nat.add_comm 3 i]
  exact State.getD_payload s offset.toNat hi

/-! ### The read request -/

theorem execMread_of_valid {s : State} {node fc : Byte} {count : Word16} (hconf : s.configured = true)
    (hidle : s.txc = .idle) (hrx : s.rxActive = false) (hargs : mreadArgsValid s.params.capacity node fc count = true)
    (start : Word16) :
    execMread node fc start count s = (s.rxFlush.setMarker node).sendFrame .mread (requestBody node fc start count) := by
  simp [execMread, hconf, hargs, hrx, State.sending_eq_false.2 hidle]

/-- Settles O32: the arguments are valid, and the request's two words stand high byte first. -/
theorem mreadBuildsTheRequest : Obligations.MreadBuildsTheRequest := by
  unfold Obligations.MreadBuildsTheRequest
  intro node fc start count s hconf hidle hrx hcap hnode hnode' hfc hcount hfits
  have hargs : mreadArgsValid s.params.capacity node fc count = true := by
    rw [← Bool.not_eq_false, mreadArgsValid_eq_false]
    rintro (h | h | ⟨h3, h4⟩ | h | h)
    · omega
    · omega
    · exact hfc.elim h3 h4
    · exact hcount h
    · omega
  have hroom : (requestBody node fc start count).length + 2 ≤ (s.rxFlush.setMarker node).params.capacity := hcap
  obtain ⟨t, ht, heq, hbody, hcrc, hrest⟩ := (s.rxFlush.setMarker node).sendFrame_builds .mread hroom
  have hexec : exec (.mread node fc start count) s = .next t := (execMread_of_valid hconf hidle hrx hargs start).trans ht
  have hbyte : ∀ i, i < 6 → t.bufByte i = (requestBody node fc start count).getD i 0#8 := hbody
  refine ⟨t, hexec, heq, hbyte 0 (by decide), hbyte 1 (by decide), ?_, ?_, hcrc, hrest⟩
  · rw [hbyte 2 (by decide), hbyte 3 (by decide)]
    exact cat_hi8_lo8 start
  · rw [hbyte 4 (by decide), hbyte 5 (by decide)]
    exact cat_hi8_lo8 count

end Sys2Proof.Machine
end

section
/-!
What a step takes from the list of inputs (46_config_and_environment.md R261, R263 to R266), and reset
(70_reset_and_hazards.md R330).
-/

namespace Sys2Proof.Machine

variable {s : State}

/-! ### Commands -/

theorem step_of_command {w : CmdWord} {payload : Memory} {rest : List Input} (hmicro : s.microStep = none)
    (hwait : s.waiting = false) (hin : s.inputs = .command w payload :: rest) :
    step s = exec (decodeCommand w) (s.accepted payload rest) := by
  simp [step, State.turn, hmicro, hwait, hin]

/-- Settles O13: outside the two waits no micro-step is enabled and a command is taken. -/
theorem stepRunsTheDecodedCommand : Obligations.StepRunsTheDecodedCommand := by
  unfold Obligations.StepRunsTheDecodedCommand
  intro s w payload rest hin htx
  have hwait : s.waiting = false := State.waiting_eq_false.2 htx
  exact step_of_command (State.microStep_none_of_not_waiting hwait) hwait hin

theorem State.withinT35_eq_true : s.withinT35 = true ↔ (s.nowUs - s.tLastUs) * s.t35.den < s.t35.num :=
  decide_eq_true_iff

theorem State.settling_eq_true : s.settling = true ↔ s.nowUs - s.tDeUs < s.params.deSettleUs := decide_eq_true_iff

/-- Before a wait is over no micro-step is enabled (R242, R245). -/
theorem State.microStep_of_silence_pending (htx : s.txc = .waitSilence) (h : s.withinT35 = true) :
    s.microStep = none := by simp [State.microStep, htx, h]

theorem State.microStep_of_settling (htx : s.txc = .deSettle) (h : s.settling = true) : s.microStep = none := by
  simp [State.microStep, htx, h]

theorem State.waiting_eq_true : s.waiting = true ↔ s.txc = .waitSilence ∨ s.txc = .deSettle := decide_eq_true_iff

/-- While a send waits and no event is next, time passes. -/
theorem step_of_waiting (hmicro : s.microStep = none) (hwait : s.waiting = true) (hin : s.noEventNext) :
    step s = .next s.idleTick := by
  obtain hin | ⟨w, payload, rest, hin⟩ := hin <;> simp [step, State.turn, hmicro, hwait, hin]

/-- Settles O14: the wait is not over, and the command keeps its place. -/
theorem busyInterfaceAcceptsNoCommand : Obligations.BusyInterfaceAcceptsNoCommand := by
  unfold Obligations.BusyInterfaceAcceptsNoCommand
  intro s w payload rest hin hpending
  have hnext : s.noEventNext := .inr ⟨w, payload, rest, hin⟩
  have hwait : s.waiting = true ∧ s.microStep = none := by
    obtain ⟨htx, htime⟩ | ⟨htx, htime⟩ := hpending
    · exact ⟨State.waiting_eq_true.2 (.inl htx),
        State.microStep_of_silence_pending htx (State.withinT35_eq_true.2 htime)⟩
    · exact ⟨State.waiting_eq_true.2 (.inr htx), State.microStep_of_settling htx (State.settling_eq_true.2 htime)⟩
  exact ⟨Config.openTick s.draws + 1, Nat.le_add_left 1 _, step_of_waiting hwait.2 hwait.1 hnext⟩

/-! ### Events and reset -/

/-- An event at the head of the inputs occurs where no micro-step is enabled. -/
theorem step_of_event {e : Input} {rest : List Input} (hmicro : s.microStep = none) (hin : s.inputs = e :: rest)
    (he : ∀ w payload, e ≠ .command w payload) : step s = State.runEvent { s with inputs := rest } e := by
  cases e with
  | command w payload => exact absurd rfl (he w payload)
  | rxByte b => simp [step, State.turn, hmicro, hin]
  | txDone => simp [step, State.turn, hmicro, hin]
  | tick d => simp [step, State.turn, hmicro, hin]
  | reset fifo now => simp [step, State.turn, hmicro, hin]

/-- Settles O41, event by event. -/
theorem eventsChangeOnlyTheTransport : Obligations.EventsChangeOnlyTheTransport := by
  unfold Obligations.EventsChangeOnlyTheTransport
  intro s rest hmicro
  refine ⟨fun b hin => ?_, fun hin hbusy => ?_, fun hin hbusy => ?_, fun d hin hd => ?_, fun hin => ?_⟩
  · exact step_of_event hmicro hin nofun
  · exact (step_of_event hmicro hin nofun).trans (if_pos hbusy)
  · exact (step_of_event hmicro hin nofun).trans (if_neg (by simp [hbusy]))
  · exact (step_of_event hmicro hin nofun).trans (if_neg (by omega))
  · exact step_of_event hmicro hin nofun

/-- Settles O42: State.reset, and the state that a reset event leaves, hold these values. -/
theorem resetLeavesTheBlockQuiescent : Obligations.ResetLeavesTheBlockQuiescent := by
  unfold Obligations.ResetLeavesTheBlockQuiescent
  intro quiet
  refine ⟨by decide, fun s fifo now rest hmicro hin => ?_⟩
  have hquiet : quiet (State.powerOn { s with inputs := rest } fifo now) :=
    ⟨rfl, rfl, rfl, rfl, rfl, rfl, rfl, rfl, rfl, rfl, rfl, rfl, rfl⟩
  exact ⟨_, step_of_event hmicro hin nofun, hquiet, rfl, rfl, rfl, rfl, rfl, rfl⟩

end Sys2Proof.Machine
end

section
/-!
The wait of a send is bounded (45_transmission_controller.md R248): each step in which a wait goes on takes at least one
microsecond (46_config_and_environment.md R266), so the hand-off is reached, of the frame that stood in `buf` all the while.
-/

namespace Sys2Proof.Machine

variable {s t : State}

/-! ### Runs -/

theorem run_succ {M : Host.Core} {a b : M.State} (h : M.step a = .next b) (k : Nat) : M.run (k + 1) a = M.run k b := by
  rw [Host.Core.run, h]

/-- Within `n` steps a state with a property is reached. -/
def State.Reaches (s : State) (n : Nat) (Q : State → Prop) : Prop := ∃ k t, k ≤ n ∧ core.run k s = .next t ∧ Q t

theorem State.Reaches.of_step {n : Nat} {Q : State → Prop} (h : step s = .next t) (ht : t.Reaches n Q) :
    s.Reaches (n + 1) Q := by
  obtain ⟨k, u, hk, hrun, hu⟩ := ht
  exact ⟨k + 1, u, Nat.succ_le_succ hk, (run_succ (M := core) h k).trans hrun, hu⟩

theorem State.reaches_self {Q : State → Prop} (h : Q s) (n : Nat) : s.Reaches n Q := ⟨0, s, Nat.zero_le n, rfl, h⟩

theorem State.Reaches.mono {m n : Nat} {Q : State → Prop} (h : s.Reaches m Q) (hmn : m ≤ n) : s.Reaches n Q := by
  obtain ⟨k, t, hk, hrun, ht⟩ := h
  exact ⟨k, t, hk.trans hmn, hrun, ht⟩

/-- The frame of `s` has been handed over, the command has returned, and no input has been taken. -/
def State.HandedOver (s t : State) : Prop :=
  t.txc = .active ∧ t.starter = none ∧ t.txLog = s.txLog ++ s.frameBytes s.len ∧ t.inputs = s.inputs

/-- What stays fixed while a send waits: nothing but the frame's owner and the inputs matters to the hand-off. -/
structure State.AwaitsHandOff (s : State) : Prop where
  starter : ∃ who, s.starter = some who
  room : s.len ≤ s.params.capacity
  next : s.noEventNext

theorem State.AwaitsHandOff.idleTick (h : s.AwaitsHandOff) : s.idleTick.AwaitsHandOff := ⟨h.starter, h.room, h.next⟩

theorem State.AwaitsHandOff.enableDriver (h : s.AwaitsHandOff) : s.enableDriver.AwaitsHandOff :=
  ⟨h.starter, h.room, h.next⟩

theorem State.idleTick_nowUs_eq (s : State) : s.idleTick.nowUs = s.nowUs + (Config.openTick s.draws + 1) := rfl

/-! ### The two waits -/

theorem State.AwaitsHandOff.reaches_of_handOff (h : s.AwaitsHandOff) (hm : s.microStep = some s.handOff) :
    s.Reaches 1 s.HandedOver := by
  obtain ⟨who, hwho⟩ := h.starter
  have hstep := (step_of_microStep hm).trans (State.handOff_of_starter hwho h.room)
  exact .of_step hstep (State.reaches_self ⟨rfl, rfl, rfl, rfl⟩ 0)

/-- The driver settles within as many steps as its settle time has microseconds left. -/
theorem State.AwaitsHandOff.reaches_of_deSettle {n : Nat} (h : s.AwaitsHandOff) (htx : s.txc = .deSettle)
    (hstamp : s.tDeUs ≤ s.nowUs) (hn : s.params.deSettleUs ≤ s.nowUs - s.tDeUs + n) : s.Reaches (n + 1) s.HandedOver := by
  induction n generalizing s with
  | zero => exact h.reaches_of_handOff (State.microStep_of_settled htx (State.settling_eq_false.2 hn))
  | succ n ih =>
    cases hset : s.settling with
    | false => exact (h.reaches_of_handOff (State.microStep_of_settled htx hset)).mono (by omega)
    | true =>
      have hstep := step_of_waiting (State.microStep_of_settling htx hset) (State.waiting_eq_true.2 (.inr htx)) h.next
      refine .of_step hstep (ih h.idleTick htx ?_ ?_)
      · rw [State.idleTick_tDeUs, s.idleTick_nowUs_eq]
        omega
      · rw [State.idleTick_tDeUs, State.idleTick_params, s.idleTick_nowUs_eq]
        omega

/-- Once silence has elapsed, the frame is handed over at once, or when the driver has settled. -/
theorem State.AwaitsHandOff.reaches_of_silence (h : s.AwaitsHandOff) (htx : s.txc = .waitSilence)
    (hsilent : s.withinT35 = false) : s.Reaches (s.params.deSettleUs + 2) s.HandedOver := by
  cases hpin : s.dePresent with
  | false => exact (h.reaches_of_handOff (State.microStep_of_silence_without_pin htx hsilent hpin)).mono (by omega)
  | true =>
    have hstep := step_of_microStep (State.microStep_of_silence_with_pin htx hsilent hpin)
    exact .of_step hstep (h.enableDriver.reaches_of_deSettle rfl (Nat.le_refl _) (Nat.le_add_left _ _))

/-- Silence elapses within as many steps as are missing from T35. -/
theorem State.AwaitsHandOff.reaches_of_waitSilence {n : Nat} (h : s.AwaitsHandOff) (htx : s.txc = .waitSilence)
    (hstamp : s.tLastUs ≤ s.nowUs) (hn : s.t35.num ≤ (s.nowUs - s.tLastUs + n) * s.t35.den) :
    s.Reaches (n + (s.params.deSettleUs + 2)) s.HandedOver := by
  induction n generalizing s with
  | zero => exact (h.reaches_of_silence htx (State.withinT35_eq_false.2 hn)).mono (Nat.le_add_left _ _)
  | succ n ih =>
    cases hsilent : s.withinT35 with
    | false => exact (h.reaches_of_silence htx hsilent).mono (Nat.le_add_left _ _)
    | true =>
      have hstep := step_of_waiting (State.microStep_of_silence_pending htx hsilent)
        (State.waiting_eq_true.2 (.inl htx)) h.next
      have hlater : s.nowUs - s.tLastUs + (n + 1) ≤ s.idleTick.nowUs - s.idleTick.tLastUs + n := by
        rw [State.idleTick_tLastUs, s.idleTick_nowUs_eq]
        omega
      have hreach := ih h.idleTick htx (Nat.le_add_right_of_le hstamp) (hn.trans (Nat.mul_le_mul_right _ hlater))
      exact (State.Reaches.of_step hstep hreach).mono (by rw [State.idleTick_params]; omega)

/-- Settles O38: T35 of a configured block has a positive denominator, so one microsecond more than its floor has silence
elapsed; the driver then settles. -/
theorem everySendReachesItsHandOff : Obligations.EverySendReachesItsHandOff := by
  unfold Obligations.EverySendReachesItsHandOff
  intro s hinv hwait hnext
  have hstarter : ∃ who, s.starter = some who := Option.isSome_iff_exists.1 (hinv.inProgress.trans hwait)
  have h : s.AwaitsHandOff := ⟨hstarter, hinv.lenBound, hnext⟩
  suffices hreach : s.Reaches (s.t35.num / s.t35.den + s.params.deSettleUs + 3) s.HandedOver from hreach
  obtain htx | htx := State.waiting_eq_true.1 hwait
  · obtain ⟨hbaud, -, h35⟩ := hinv.timing (hinv.configured_of_not_idle (by simp [htx]))
    have hden : 0 < s.t35.den := h35 ▸ durationT35_den_pos hbaud
    have hceil : s.t35.num ≤ (s.t35.num / s.t35.den + 1) * s.t35.den := by
      rw [Nat.mul_comm]
      exact (Nat.lt_mul_div_succ s.t35.num hden).le
    have hn := hceil.trans (Nat.mul_le_mul_right s.t35.den (Nat.le_add_left _ (s.nowUs - s.tLastUs)))
    exact (h.reaches_of_waitSilence htx hinv.lastStamp hn).mono (by omega)
  · refine (h.reaches_of_deSettle htx (hinv.deStamp htx) (Nat.le_add_left _ _)).mono ?_
    have := Nat.zero_le (s.t35.num / s.t35.den)
    omega

end Sys2Proof.Machine
end

section
/-!
What an instruction leaves of the clock (10_state.md R48), and what it answers (20_memory.md R72): `rsp_ok` turns from 1 to 0
by FAIL only, and FAIL has no other effect.
-/

namespace Sys2Proof.Machine

variable {s t : State}

/-- The clock stands, and `rsp_ok` is 1 or as before. -/
structure State.AnswersOk (s t : State) : Prop where
  nowUs : t.nowUs = s.nowUs
  rspOk : t.rspOk = true ∨ t.rspOk = s.rspOk

/-- A started send delivers no response yet (log entry 11). -/
theorem State.AnswersOk.send {u : State} (hu : s.AnswersOk u) (who : Starter) (body : List Byte) :
    s.AnswersOk ((u.buildFrame body).startSend who) := ⟨hu.nowUs, hu.rspOk⟩

theorem State.Prepares.answersOk {who : Starter} {ready : State} (h : s.Prepares who ready) : s.AnswersOk ready := by
  cases h with
  | sendErr => exact ⟨rfl, .inr rfl⟩
  | sendRsp => exact ⟨rfl, .inr rfl⟩
  | mread node => exact ⟨rfl, .inr rfl⟩

theorem State.sendErrorFrame_answersOk {who : Starter} {fc x : Byte} (h : s.sendErrorFrame who fc x = .next t) :
    s.AnswersOk t := by
  obtain ⟨-, rfl⟩ := State.sendErrorFrame_next h
  exact State.Prepares.sendErr.answersOk.send _ _

theorem State.receiveRequest_answersOk {f : Byte} (h : s.receiveRequest f = .next t) : s.AnswersOk t := by
  obtain ⟨-, rfl⟩ := State.receiveRequest_next h
  exact ⟨rfl, .inl rfl⟩

theorem State.dispatchFrame_answersOk (h : s.dispatchFrame = .next t) : s.AnswersOk t := by
  obtain ⟨-, -, -, f, rfl⟩ | ⟨-, -, -, -, -, rfl⟩ | ⟨-, -, rfl⟩ | ⟨-, -, rfl⟩ | rfl := State.dispatchFrame_next h
  · exact ⟨rfl, .inl rfl⟩
  · exact State.Prepares.sendErr.answersOk.send _ _
  · exact ⟨rfl, .inl rfl⟩
  · exact ⟨rfl, .inl rfl⟩
  · exact ⟨rfl, .inl rfl⟩

theorem State.validate_answersOk (h : s.validate = .next t) : s.AnswersOk t := by
  obtain ⟨-, rfl⟩ | ⟨-, -, -, rfl⟩ | ⟨-, -, -, hd⟩ := State.validate_next h
  · exact ⟨rfl, .inl rfl⟩
  · exact ⟨rfl, .inl rfl⟩
  · exact State.dispatchFrame_answersOk hd

theorem State.pollSending_answersOk (s : State) : s.AnswersOk s.pollSending := by
  unfold State.pollSending
  split_ifs <;> exact ⟨rfl, .inl rfl⟩

theorem execPoll_answersOk (h : execPoll s = .next t) : s.AnswersOk t := by
  obtain ⟨-, ⟨-, rfl⟩ | ⟨-, -, rfl⟩ | ⟨-, -, -, -, rfl⟩ | ⟨-, -, -, -, -, rfl⟩ | ⟨-, -, -, -, -, -, rfl⟩ |
    ⟨-, -, -, -, -, -, hv⟩ | ⟨-, -, -, rfl⟩⟩ := execPoll_next h
  · exact s.pollSending_answersOk
  · exact ⟨rfl, .inl rfl⟩
  · exact ⟨rfl, .inl rfl⟩
  · exact ⟨rfl, .inl rfl⟩
  · exact ⟨rfl, .inl rfl⟩
  · obtain ⟨hnow, hok⟩ := State.validate_answersOk hv
    exact ⟨hnow, hok⟩
  · rw [State.pollReceive_eq]
    exact ⟨rfl, .inl rfl⟩

/-- An instruction fails without any other effect, or answers otherwise; either way the clock stands. -/
theorem exec_fails_or_answersOk {i : Instr} (h : exec i s = .next t) : t = s.returnFail ∨ s.AnswersOk t := by
  cases i with
  | config baud addr dePresent =>
    obtain ⟨-, -, rfl⟩ := execConfig_next h
    exact .inr ⟨rfl, .inl rfl⟩
  | poll => exact .inr (execPoll_answersOk h)
  | sendErr fc kind =>
    obtain ⟨-, hfail | ⟨-, -, -, x, rfl⟩⟩ := execSendErr_next h
    · exact .inl hfail
    · exact .inr (State.Prepares.sendErr.answersOk.send _ _)
  | sendRsp fc length offset =>
    obtain ⟨-, hfail | ⟨-, -, -, rfl⟩⟩ := execSendRsp_next h
    · exact .inl hfail
    · exact .inr (State.Prepares.sendRsp.answersOk.send _ _)
  | mread node fc start count =>
    obtain ⟨-, hfail | ⟨-, -, -, rfl⟩⟩ := execMread_next h
    · exact .inl hfail
    · exact .inr ((State.Prepares.mread node).answersOk.send _ _)
  | mfetch n =>
    obtain ⟨-, -, rfl | ⟨-, -, -, rfl⟩⟩ := execMfetch_next h
    · exact .inr ⟨rfl, .inl rfl⟩
    · exact .inr ⟨rfl, .inl rfl⟩
  | crc n =>
    obtain ⟨-, -, -, -, rfl⟩ := execCrc_next h
    exact .inr ⟨rfl, .inl rfl⟩
  | reservedOp w => exact .inl (Host.Outcome.next.inj h).symm
  | wireReqReadHolding a => exact .inr (State.receiveRequest_answersOk h)
  | wireReqReadInput a => exact .inr (State.receiveRequest_answersOk h)
  | wireReqOther a f => exact .inr (State.sendErrorFrame_answersOk h)
  | wireRspReadHolding a => cases h; exact .inr ⟨rfl, .inl rfl⟩
  | wireRspReadInput a => cases h; exact .inr ⟨rfl, .inl rfl⟩
  | wireExc a f => cases h; exact .inr ⟨rfl, .inl rfl⟩
  | wireRspOther a f => cases h; exact .inr ⟨rfl, .inl rfl⟩
  | wireForeign a f => cases h; exact .inr ⟨rfl, .inl rfl⟩

/-- Settles O51: what does not fail leaves no `rsp_ok = 0` where there was a 1. -/
theorem failingCommandHasNoEffect : Obligations.FailingCommandHasNoEffect := by
  unfold Obligations.FailingCommandHasNoEffect
  intro i s t h hbefore hafter
  obtain rfl | ⟨-, hok | hok⟩ := exec_fails_or_answersOk h
  · rfl
  · exact absurd (hok.symm.trans hafter) (by decide)
  · exact absurd (hbefore.symm.trans (hok.symm.trans hafter)) (by decide)

theorem exec_nowUs {i : Instr} (h : exec i s = .next t) : t.nowUs = s.nowUs := by
  obtain rfl | hanswer := exec_fails_or_answersOk h
  · rfl
  · exact hanswer.nowUs

theorem State.microStep_nowUs (h : s.microStep = some (.next t)) : t.nowUs = s.nowUs := by
  obtain ⟨-, -, -, hr⟩ | ⟨-, -, -, hr⟩ | ⟨-, -, hr⟩ := State.microStep_some h
  · cases hr
    rfl
  · rw [State.handOff_frame hr.symm]
  · rw [State.handOff_frame hr.symm]

/-- Of the events only a reset can turn the clock back. -/
theorem State.runEvent_nowUs {e : Input} (h : s.runEvent e = .next t) :
    s.nowUs ≤ t.nowUs ∨ ∃ fifo now, e = .reset fifo now := by
  obtain ⟨b, -, rfl⟩ | ⟨-, -, rfl⟩ | ⟨d, -, -, rfl⟩ | ⟨fifo, now, he, rfl⟩ | ⟨w, p, -, rfl⟩ := State.runEvent_next h
  · exact .inl (Nat.le_refl _)
  · exact .inl (Nat.le_refl _)
  · exact .inl (Nat.le_add_right _ _)
  · exact .inr ⟨fifo, now, he⟩
  · exact .inl (Nat.le_refl _)

/-- Settles O50: only TICK and the passing of time move the clock, both forwards. -/
theorem clockNeverRunsBackwards : Obligations.ClockNeverRunsBackwards := by
  unfold Obligations.ClockNeverRunsBackwards
  refine ⟨fun i s t h => exec_nowUs h, fun s t h hreset => ?_⟩
  obtain ⟨r, hm, hr⟩ | ⟨-, w, payload, rest, -, -, hr⟩ | ⟨-, e, rest, hin, -, hr⟩ | ⟨-, -, hr⟩ := step_cases s <;>
    rw [h] at hr
  · exact (State.microStep_nowUs (hm.trans (congrArg some hr.symm))).ge
  · exact (exec_nowUs (s := s.accepted payload rest) hr.symm).ge
  · obtain hle | ⟨fifo, now, rfl⟩ := State.runEvent_nowUs hr.symm
    · exact hle
    · exact absurd ⟨fifo, now, rest, hin⟩ hreset
  · cases hr
    exact Nat.le_add_right _ _

end Sys2Proof.Machine
end

section
/-!
The result registers (10_state.md R25), the outstanding request (R30) and the driver-enable output (R32): which steps change
them.
-/

namespace Sys2Proof.Machine

variable {s t : State}

/-! ### The steps that can change them -/

/-- The result registers and the driver-enable output are as before, and an outstanding request is still outstanding. -/
structure State.KeepsRegisters (s t : State) : Prop where
  outFunc : t.outFunc = s.outFunc
  outStart : t.outStart = s.outStart
  outCount : t.outCount = s.outCount
  awaitValid : s.awaitValid = true → t.awaitValid = true
  de : t.de = s.de

theorem State.Prepares.keepsRegisters {who : Starter} {ready : State} (h : s.Prepares who ready) :
    s.KeepsRegisters ready := by
  cases h with
  | sendErr => exact ⟨rfl, rfl, rfl, id, rfl⟩
  | sendRsp => exact ⟨rfl, rfl, rfl, id, rfl⟩
  | mread node => exact ⟨rfl, rfl, rfl, fun _ => rfl, rfl⟩

/-- A step keeps the registers, enables the driver, or is a POLL, a CONFIG or a reset. -/
inductive RegisterStep (s : State) : State → Prop
  | keeps {t : State} (h : s.KeepsRegisters t) : RegisterStep s t
  | enableDriver (htx : s.txc = .waitSilence) (hpin : s.dePresent = true) : RegisterStep s s.enableDriver
  | poll {t : State} {payload : Memory} {rest : List Input} (hin : s.headIsPoll)
      (h : execPoll (s.accepted payload rest) = .next t) : RegisterStep s t
  | config {t : State} (hin : s.headIsConfig)
      (hresults : t.outFunc = s.outFunc ∧ t.outStart = s.outStart ∧ t.outCount = s.outCount) (hde : t.de = false) :
      RegisterStep s t
  | reset {t : State} (hin : s.headIsReset) (hde : t.de = false) : RegisterStep s t

theorem State.microStep_registers (h : s.microStep = some (.next t)) : RegisterStep s t := by
  obtain ⟨htx, -, hpin, hr⟩ | ⟨-, -, -, hr⟩ | ⟨-, -, hr⟩ := State.microStep_some h
  · cases hr
    exact .enableDriver htx hpin
  · rw [State.handOff_frame hr.symm]
    exact .keeps ⟨rfl, rfl, rfl, id, rfl⟩
  · rw [State.handOff_frame hr.symm]
    exact .keeps ⟨rfl, rfl, rfl, id, rfl⟩

theorem State.command_registers {w : CmdWord} {payload : Memory} {rest : List Input}
    (hin : s.inputs = .command w payload :: rest)
    (h : exec (decodeCommand w) (s.accepted payload rest) = .next t) : RegisterStep s t := by
  cases exec_decodeCommand_effect h with
  | config hw _ _ => exact .config ⟨w, payload, rest, _, _, _, hin, hw⟩ ⟨rfl, rfl, rfl⟩ rfl
  | poll hw hpoll => exact .poll ⟨payload, rest, hw ▸ hin⟩ hpoll
  | send hready _ _ _ _ _ _ =>
    obtain ⟨hfunc, hstart, hcount, hawait, hde⟩ := hready.keepsRegisters
    exact .keeps ⟨hfunc, hstart, hcount, hawait, hde⟩
  | fetch v _ => exact .keeps ⟨rfl, rfl, rfl, id, rfl⟩
  | answer ok v => exact .keeps ⟨rfl, rfl, rfl, id, rfl⟩

theorem State.event_registers {e : Input} {rest : List Input} (hin : s.inputs = e :: rest)
    (h : State.runEvent { s with inputs := rest } e = .next t) : RegisterStep s t := by
  obtain ⟨b, -, rfl⟩ | ⟨-, -, rfl⟩ | ⟨d, -, -, rfl⟩ | ⟨fifo, now, rfl, rfl⟩ | ⟨w, p, -, rfl⟩ := State.runEvent_next h
  · exact .keeps ⟨rfl, rfl, rfl, id, rfl⟩
  · exact .keeps ⟨rfl, rfl, rfl, id, rfl⟩
  · exact .keeps ⟨rfl, rfl, rfl, id, rfl⟩
  · exact .reset ⟨fifo, now, rest, hin⟩ rfl
  · exact .keeps ⟨rfl, rfl, rfl, id, rfl⟩

theorem step_registers (h : step s = .next t) : RegisterStep s t := by
  obtain ⟨r, hm, hr⟩ | ⟨-, w, payload, rest, hin, -, hr⟩ | ⟨-, e, rest, hin, -, hr⟩ | ⟨-, -, hr⟩ := step_cases s <;>
    rw [h] at hr
  · exact State.microStep_registers (hm.trans (congrArg some hr.symm))
  · exact State.command_registers hin hr.symm
  · exact State.event_registers hin hr.symm
  · cases hr
    exact .keeps ⟨rfl, rfl, rfl, id, rfl⟩

/-! ### The result registers -/

/-- The result registers are as before. -/
def State.KeepsResults (s t : State) : Prop :=
  t.outFunc = s.outFunc ∧ t.outStart = s.outStart ∧ t.outCount = s.outCount

theorem State.dispatchFrame_results (h : s.dispatchFrame = .next t) :
    s.KeepsResults t ∨ (t.rspOk = true ∧ t.rspStatus = 2#4) := by
  obtain ⟨-, -, -, f, rfl⟩ | ⟨-, -, -, -, -, rfl⟩ | ⟨-, -, rfl⟩ | ⟨-, -, rfl⟩ | rfl := State.dispatchFrame_next h
  · exact .inr ⟨rfl, rfl⟩
  · exact .inl ⟨rfl, rfl, rfl⟩
  · exact .inl ⟨rfl, rfl, rfl⟩
  · exact .inl ⟨rfl, rfl, rfl⟩
  · exact .inl ⟨rfl, rfl, rfl⟩

theorem State.validate_results (h : s.validate = .next t) :
    s.KeepsResults t ∨ (t.rspOk = true ∧ t.rspStatus = 2#4) := by
  obtain ⟨-, rfl⟩ | ⟨-, -, -, rfl⟩ | ⟨-, -, -, hd⟩ := State.validate_next h
  · exact .inl ⟨rfl, rfl, rfl⟩
  · exact .inl ⟨rfl, rfl, rfl⟩
  · exact State.dispatchFrame_results hd

theorem State.pollSending_results (s : State) : s.KeepsResults s.pollSending := by
  unfold State.pollSending
  split_ifs <;> exact ⟨rfl, rfl, rfl⟩

/-- A POLL writes the result registers only of a read request, with FRAME_RECEIVED (R185). -/
theorem execPoll_results (h : execPoll s = .next t) :
    s.KeepsResults t ∨ (t.rspOk = true ∧ t.rspStatus = 2#4) := by
  obtain ⟨-, ⟨-, rfl⟩ | ⟨-, -, rfl⟩ | ⟨-, -, -, -, rfl⟩ | ⟨-, -, -, -, -, rfl⟩ | ⟨-, -, -, -, -, -, rfl⟩ |
    ⟨-, -, -, -, -, -, hv⟩ | ⟨-, -, -, rfl⟩⟩ := execPoll_next h
  · exact .inl s.pollSending_results
  · exact .inl ⟨rfl, rfl, rfl⟩
  · exact .inl ⟨rfl, rfl, rfl⟩
  · exact .inl ⟨rfl, rfl, rfl⟩
  · exact .inl ⟨rfl, rfl, rfl⟩
  · exact State.validate_results (s := s.endReceive) hv
  · rw [State.pollReceive_eq]
    exact .inl ⟨rfl, rfl, rfl⟩

/-- Settles O47: of the steps that can change a register only a POLL and a reset reach the result registers. -/
theorem onlyFrameReceivedWritesTheResultRegisters : Obligations.OnlyFrameReceivedWritesTheResultRegisters := by
  unfold Obligations.OnlyFrameReceivedWritesTheResultRegisters
  intro s t h hne
  have hchanged : ¬ s.KeepsResults t := by
    rintro ⟨hfunc, hstart, hcount⟩
    exact hne.elim (absurd hfunc) fun hne => hne.elim (absurd hstart) (absurd hcount)
  cases step_registers h with
  | keeps hkeeps => exact absurd ⟨hkeeps.outFunc, hkeeps.outStart, hkeeps.outCount⟩ hchanged
  | enableDriver _ _ => exact absurd ⟨rfl, rfl, rfl⟩ hchanged
  | poll hin hpoll => exact .inl ⟨hin, (execPoll_results hpoll).resolve_left hchanged⟩
  | config _ hresults _ => exact absurd hresults hchanged
  | reset hin _ => exact .inr hin

/-! ### The outstanding request -/

/-- A dispatched frame clears the marker only as the awaited answer (R187). -/
theorem State.dispatchFrame_marker (h : s.dispatchFrame = .next t) (hbefore : s.awaitValid = true)
    (hafter : t.awaitValid = false) : s.bufByte 0 = s.awaitAddr := by
  have hkept : ¬ t.awaitValid = s.awaitValid := by simp [hbefore, hafter]
  obtain ⟨-, -, -, f, rfl⟩ | ⟨-, -, -, -, -, rfl⟩ | ⟨-, haddr, -⟩ | ⟨-, haddr, -⟩ | rfl := State.dispatchFrame_next h
  · exact absurd rfl hkept
  · exact absurd rfl hkept
  · exact haddr
  · exact haddr
  · exact absurd rfl hkept

theorem State.validate_marker (h : s.validate = .next t) (hbefore : s.awaitValid = true)
    (hafter : t.awaitValid = false) : s.len < 7 ∨ ¬ s.crcGood ∨ s.bufByte 0 = s.awaitAddr := by
  obtain ⟨hshort, -⟩ | ⟨hlen, -, hcrc, -⟩ | ⟨-, -, -, hd⟩ := State.validate_next h
  · rw [State.minLen_of_awaiting hbefore] at hshort
    exact .inl hshort
  · exact .inr (.inl (mt (State.crcGood_iff (State.two_le_len_of_longEnough hlen)).1 hcrc))
  · exact .inr (.inr (State.dispatchFrame_marker hd hbefore hafter))

/-- The conditions under which a POLL completes the frame in `buf`. -/
theorem State.frameCompletes_of (hconf : s.configured = true) (hidle : s.txc = .idle) (hexp : s.masterExpired = false)
    (hfifo : s.rxFifo = []) (hrx : s.rxActive = true) (htime : s.withinT15 = false) : s.frameCompletes :=
  ⟨⟨hconf, hidle, mt State.masterExpired_eq_true.2 (Bool.eq_false_iff.1 hexp)⟩, hfifo, hrx,
    Nat.not_lt.1 (mt State.withinT15_eq_true.2 (Bool.eq_false_iff.1 htime))⟩

theorem State.pollSending_awaitValid (s : State) : s.pollSending.awaitValid = s.awaitValid := by
  unfold State.pollSending
  split_ifs <;> rfl

/-- A POLL clears the marker by the four causes of R30. -/
theorem execPoll_marker (h : execPoll s = .next t) (hbefore : s.awaitValid = true) (hafter : t.awaitValid = false) :
    s.configured = true ∧ s.txc = .idle ∧ (s.requestExpired ∨ (s.frameCompletes ∧ s.overflow = false ∧
      (s.len < 7 ∨ ¬ s.crcGood ∨ s.bufByte 0 = s.awaitAddr))) := by
  have hkept : ¬ t.awaitValid = s.awaitValid := by simp [hbefore, hafter]
  obtain ⟨hconf, ⟨-, rfl⟩ | ⟨hidle, hexp, -⟩ | ⟨-, -, -, -, rfl⟩ | ⟨-, -, -, -, -, rfl⟩ | ⟨-, -, -, -, -, -, rfl⟩ |
    ⟨hidle, hexp, hfifo, hrx, htime, hover, hv⟩ | ⟨-, -, -, rfl⟩⟩ := execPoll_next h
  · exact absurd s.pollSending_awaitValid hkept
  · exact ⟨hconf, hidle, .inl (State.masterExpired_eq_true.1 hexp)⟩
  · exact absurd rfl hkept
  · exact absurd rfl hkept
  · exact absurd rfl hkept
  · exact ⟨hconf, hidle, .inr ⟨State.frameCompletes_of hconf hidle hexp hfifo hrx htime, hover,
      State.validate_marker (s := s.endReceive) hv hbefore hafter⟩⟩
  · rw [State.pollReceive_eq] at hkept
    exact absurd rfl hkept

/-- Settles O48: of the steps that can change a register a POLL clears the marker by R30's causes; the others are CONFIG and
reset. -/
theorem markerIsClearedByItsCausesOnly : Obligations.MarkerIsClearedByItsCausesOnly := by
  unfold Obligations.MarkerIsClearedByItsCausesOnly
  intro s t h hbefore hafter
  cases step_registers h with
  | keeps hkeeps => exact absurd (hafter.symm.trans (hkeeps.awaitValid hbefore)) (by decide)
  | enableDriver _ _ => exact absurd (hafter.symm.trans hbefore) (by decide)
  | poll hin hpoll =>
    have hcauses := execPoll_marker hpoll hbefore hafter
    exact .inl ⟨hin, hcauses⟩
  | config hin _ _ => exact .inr (.inl hin)
  | reset hin _ => exact .inr (.inr hin)

/-! ### Driver-enable -/

theorem State.dispatchFrame_de (h : s.dispatchFrame = .next t) : t.de = s.de := by
  obtain ⟨-, -, -, f, rfl⟩ | ⟨-, -, -, -, -, rfl⟩ | ⟨-, -, rfl⟩ | ⟨-, -, rfl⟩ | rfl := State.dispatchFrame_next h <;> rfl

theorem State.validate_de (h : s.validate = .next t) : t.de = s.de := by
  obtain ⟨-, rfl⟩ | ⟨-, -, -, rfl⟩ | ⟨-, -, -, hd⟩ := State.validate_next h
  · rfl
  · rfl
  · exact State.dispatchFrame_de hd

/-- Branch B1 releases the driver of a complete transmission, with a direction pin (R151). -/
theorem State.pollSending_de (hne : s.pollSending.de ≠ s.de) :
    s.pollSending.de = false ∧ s.dePresent = true ∧ s.txComplete = true := by
  cases hdone : s.txComplete with
  | false => rw [State.pollSending_of_incomplete hdone] at hne; exact absurd rfl hne
  | true =>
    rw [State.pollSending_of_complete hdone] at hne ⊢
    cases hpin : s.dePresent with
    | false => simp [hpin] at hne
    | true => exact ⟨rfl, rfl, rfl⟩

theorem execPoll_de (h : execPoll s = .next t) (hne : t.de ≠ s.de) :
    t.de = false ∧ s.dePresent = true ∧ s.txc ≠ .idle ∧ s.txComplete = true := by
  obtain ⟨-, ⟨htx, rfl⟩ | ⟨-, -, rfl⟩ | ⟨-, -, -, -, rfl⟩ | ⟨-, -, -, -, -, rfl⟩ | ⟨-, -, -, -, -, -, rfl⟩ |
    ⟨-, -, -, -, -, -, hv⟩ | ⟨-, -, -, rfl⟩⟩ := execPoll_next h
  · obtain ⟨hde, hpin, hdone⟩ := State.pollSending_de hne
    exact ⟨hde, hpin, htx, hdone⟩
  · exact absurd rfl hne
  · exact absurd rfl hne
  · exact absurd rfl hne
  · exact absurd rfl hne
  · exact absurd (State.validate_de hv) hne
  · rw [State.pollReceive_eq] at hne
    exact absurd rfl hne

/-- Settles O49: of the steps that can change a register the micro-step raises the output, and the other three lower it. -/
theorem driverEnableFollowsTheTransmission : Obligations.DriverEnableFollowsTheTransmission := by
  unfold Obligations.DriverEnableFollowsTheTransmission
  intro s t h hne
  cases step_registers h with
  | keeps hkeeps => exact absurd hkeeps.de hne
  | enableDriver htx hpin => exact .inl ⟨rfl, hpin, htx, rfl⟩
  | poll hin hpoll =>
    obtain ⟨hde, hpin, htx, hdone⟩ := execPoll_de hpoll hne
    exact .inr (.inl ⟨hde, hpin, htx, hdone, hin⟩)
  | config hin _ hde => exact .inr (.inr ⟨hde, .inl hin⟩)
  | reset hin hde => exact .inr (.inr ⟨hde, .inr hin⟩)

end Sys2Proof.Machine
end

section
/-!
Two runs of the machine side by side, continued: a micro-step and a step, when both states choose the same one.
-/

namespace Sys2Proof.Machine

variable {R R' : State → State → Prop}

theorem Result.Rel.mono {r r' : Result} (h : Result.Rel R r r') (hR : ∀ t t', R t t' → R' t t') :
    Result.Rel R' r r' := by
  cases h with
  | next ht => exact .next (hR _ _ ht)
  | fault f => exact .fault f
  | refused f => exact .refused f

theorem State.microStep_rel {s s' : State} (htx : s'.txc = s.txc) (hsilent : s'.withinT35 = s.withinT35)
    (hpin : s'.dePresent = s.dePresent) (hsettling : s'.settling = s.settling)
    (henable : R s.enableDriver s'.enableDriver) (hhandOff : Result.Rel R s.handOff s'.handOff) :
    Option.Rel (Result.Rel R) s.microStep s'.microStep := by
  unfold State.microStep
  rw [htx, hsilent, hpin, hsettling]
  cases s.txc with
  | idle => exact .none
  | active => exact .none
  | waitSilence =>
    dsimp only
    split_ifs
    · exact .none
    · exact .some (.next henable)
    · exact .some hhandOff
  | deSettle =>
    dsimp only
    split_ifs
    · exact .none
    · exact .some hhandOff

/-- Two states that take the same turn: each kind of step by itself. -/
theorem step_rel {s s' : State} (hmicro : Option.Rel (Result.Rel R) s.microStep s'.microStep) (hturn : s'.turn = s.turn)
    (hcommand : ∀ w payload rest, Result.Rel R (exec (decodeCommand w) (s.accepted payload rest))
      (exec (decodeCommand w) (s'.accepted payload rest)))
    (hevent : ∀ e rest, s.turn = .event e rest → Result.Rel R (State.runEvent { s with inputs := rest } e)
      (State.runEvent { s' with inputs := rest } e))
    (hidle : R s.idleTick s'.idleTick) : Result.Rel R (step s) (step s') := by
  unfold step
  rw [hturn]
  generalize s.microStep = m, s'.microStep = m' at hmicro
  cases hmicro with
  | some hr => exact hr
  | none =>
    cases ht : s.turn with
    | accept w payload rest => exact hcommand w payload rest
    | event e rest => exact hevent e rest ht
    | idle => exact .next hidle

/-- The event of a turn is the head of the inputs. -/
theorem State.inputs_of_turn_event {s : State} {e : Input} {rest : List Input} (h : s.turn = .event e rest) :
    s.inputs = e :: rest := by
  obtain ⟨w, payload, rest', -, -, ht⟩ | ⟨e', rest', hin, -, ht⟩ | ⟨-, ht⟩ := s.turn_cases
  · cases ht.symm.trans h
  · cases ht.symm.trans h
    exact hin
  · cases ht.symm.trans h

end Sys2Proof.Machine
end

section
/-!
The record of transmitted bytes is never read (10_state.md R47): two states that differ in the record alone take the same
step, and append the same bytes to it.
-/

namespace Sys2Proof.Machine

/-- A state with another record. -/
def State.withTxLog (s : State) (log : List Byte) : State := { s with txLog := log }

/-- The next states of two runs whose records were `old` and `log`: the same bytes were appended to both, and nothing else
differs. -/
def TxLogAppended (old log : List Byte) (t t' : State) : Prop :=
  ∃ sent, t.txLog = old ++ sent ∧ t' = t.withTxLog (log ++ sent)

/-- Nothing was appended. -/
theorem TxLogAppended.kept {old log : List Byte} {t : State} (h : t.txLog = old) :
    TxLogAppended old log t (t.withTxLog log) :=
  ⟨[], by rw [h, List.append_nil], by rw [List.append_nil]⟩

variable {s : State} {log : List Byte}

/-! ### POLL -/

theorem State.pollSending_withTxLog : (s.withTxLog log).pollSending = s.pollSending.withTxLog log := by
  cases hdone : s.txComplete with
  | false =>
    rw [State.pollSending_of_incomplete hdone, State.pollSending_of_incomplete (s := s.withTxLog log) hdone]
    rfl
  | true =>
    rw [State.pollSending_of_complete hdone, State.pollSending_of_complete (s := s.withTxLog log) hdone]
    rfl

theorem State.pollSending_txLog (s : State) : s.pollSending.txLog = s.txLog := by
  unfold State.pollSending
  split_ifs <;> rfl

theorem State.appendByte_withTxLog (b : Byte) : (s.withTxLog log).appendByte b = (s.appendByte b).withTxLog log := by
  by_cases hroom : s.len < s.params.capacity
  · rw [State.appendByte_of_room s b hroom, State.appendByte_of_room (s.withTxLog log) b hroom]
    rfl
  · rw [State.appendByte_of_full s b hroom, State.appendByte_of_full (s.withTxLog log) b hroom]
    rfl

theorem State.drain_withTxLog (bs : List Byte) : (s.withTxLog log).drain bs = (s.drain bs).withTxLog log := by
  induction bs generalizing s with
  | nil => rfl
  | cons b bs ih =>
    have happend := State.appendByte_withTxLog (s := { s with rxFifo := bs }) (log := log) b
    rw [State.drain, State.drain, ← ih, ← happend]
    rfl

theorem State.receiving_withTxLog : (s.withTxLog log).receiving = s.receiving.withTxLog log := by
  rw [State.receiving_eq, State.receiving_eq]
  rfl

theorem State.pollReceive_withTxLog : (s.withTxLog log).pollReceive = s.pollReceive.withTxLog log := by
  rw [State.pollReceive_eq_drain, State.receiving_withTxLog, State.drain_withTxLog]
  rfl

theorem State.pollReceive_txLog (s : State) : s.pollReceive.txLog = s.txLog := by rw [State.pollReceive_eq]

/-- Building and starting a frame keeps the record. -/
theorem State.sendFrame_txLogAppended (s : State) (log : List Byte) (who : Starter) (body : List Byte) :
    Result.Rel (TxLogAppended s.txLog log) (s.sendFrame who body) ((s.withTxLog log).sendFrame who body) :=
  .guardBuf rfl (.next (.kept rfl))

/-- No class of frame is handed over in the step that receives it. -/
theorem State.dispatchFrame_txLogAppended (s : State) (log : List Byte) :
    Result.Rel (TxLogAppended s.txLog log) s.dispatchFrame (s.withTxLog log).dispatchFrame := by
  have hcase : (s.withTxLog log).wireCase (s.bufByte 0) = s.wireCase (s.bufByte 0) := rfl
  have hrequest : ∀ f, Result.Rel (TxLogAppended s.txLog log) (s.receiveRequest f) ((s.withTxLog log).receiveRequest f) :=
    fun f => .guardBuf rfl (.next (.kept rfl))
  unfold State.dispatchFrame
  dsimp only
  rw [show (s.withTxLog log).bufByte = s.bufByte from rfl, hcase]
  cases s.wireCase (s.bufByte 0) with
  | own =>
    exact .ite (fun _ => hrequest 3#8) fun _ => .ite (fun _ => hrequest 4#8) fun _ =>
      State.sendFrame_txLogAppended (s.setRespAvail false) log .poll _
  | awaited =>
    exact .ite (fun _ => .next (.kept rfl)) fun _ => .ite (fun _ => .next (.kept rfl)) fun _ =>
      .ite (fun _ => .next (.kept rfl)) fun _ => .next (.kept rfl)
  | foreign => exact .next (.kept rfl)

theorem State.validate_txLogAppended (s : State) (log : List Byte) :
    Result.Rel (TxLogAppended s.txLog log) s.validate (s.withTxLog log).validate :=
  .ite (fun _ => .next (.kept rfl)) fun _ => .guardBuf rfl <| .ite (fun _ => .next (.kept rfl)) fun _ =>
    s.dispatchFrame_txLogAppended log

theorem execPoll_txLogAppended (s : State) (log : List Byte) :
    Result.Rel (TxLogAppended s.txLog log) (execPoll s) (execPoll (s.withTxLog log)) := by
  refine .ite (fun _ => .refused _) fun _ => .ite (fun _ => ?sending) fun _ => .ite (fun _ => .next (.kept rfl)) fun _ =>
    .ite (fun _ => ?silent) fun _ => ?receive
  case sending =>
    rw [State.pollSending_withTxLog]
    exact .next (.kept s.pollSending_txLog)
  case silent =>
    exact .ite (fun _ => .next (.kept rfl)) fun _ => .ite (fun _ => .next (.kept rfl)) fun _ =>
      .ite (fun _ => .next (.kept rfl)) fun _ => s.endReceive.validate_txLogAppended log
  case receive =>
    rw [State.pollReceive_withTxLog]
    exact .next (.kept s.pollReceive_txLog)

/-! ### The other commands -/

theorem State.slavePrecheck_txLogAppended {k k' : Result} (hk : Result.Rel (TxLogAppended s.txLog log) k k') :
    Result.Rel (TxLogAppended s.txLog log) (s.slavePrecheck k) ((s.withTxLog log).slavePrecheck k') :=
  .ite (fun _ => .refused _) fun _ => .ite (fun _ => .next (.kept rfl)) fun _ => .ite (fun _ => .refused _) fun _ => hk

theorem execSendErr_txLogAppended (s : State) (log : List Byte) (fc kind : Byte) :
    Result.Rel (TxLogAppended s.txLog log) (execSendErr fc kind s) (execSendErr fc kind (s.withTxLog log)) := by
  refine State.slavePrecheck_txLogAppended ?_
  cases exceptionByte kind with
  | none => exact .next (.kept rfl)
  | some x => exact State.sendFrame_txLogAppended (s.setRespAvail false) log .sendErr _

theorem execSendRsp_txLogAppended (s : State) (log : List Byte) (fc length : Byte) (offset : Word16) :
    Result.Rel (TxLogAppended s.txLog log) (execSendRsp fc length offset s)
      (execSendRsp fc length offset (s.withTxLog log)) :=
  State.slavePrecheck_txLogAppended <| .ite (fun _ => .next (.kept rfl)) fun _ => .ite (fun _ => .next (.kept rfl)) fun _ =>
    State.sendFrame_txLogAppended (s.draw.setRespAvail false) log .sendRsp _

theorem execMread_txLogAppended (s : State) (log : List Byte) (node fc : Byte) (start count : Word16) :
    Result.Rel (TxLogAppended s.txLog log) (execMread node fc start count s)
      (execMread node fc start count (s.withTxLog log)) :=
  .ite (fun _ => .refused _) fun _ => .ite (fun _ => .next (.kept rfl)) fun _ =>
    State.sendFrame_txLogAppended (s.rxFlush.setMarker node) log .mread _

theorem execMfetch_txLogAppended (s : State) (log : List Byte) (n : Word16) :
    Result.Rel (TxLogAppended s.txLog log) (execMfetch n s) (execMfetch n (s.withTxLog log)) :=
  .ite (fun _ => .refused _) fun _ => .ite (fun _ => .refused _) fun _ => .ite (fun _ => .next (.kept rfl)) fun _ =>
    .guardBuf rfl <| .ite (fun _ => .next (.kept rfl)) fun _ => .next (.kept rfl)

theorem execCrc_txLogAppended (s : State) (log : List Byte) (n : Word16) :
    Result.Rel (TxLogAppended s.txLog log) (execCrc n s) (execCrc n (s.withTxLog log)) :=
  .ite (fun _ => .refused _) fun _ => .ite (fun _ => .refused _) fun _ => .ite (fun _ => .refused _) fun _ =>
    .guardBuf rfl (.next (.kept rfl))

theorem execConfig_txLogAppended (s : State) (log : List Byte) (baud : BitVec 32) (addr : Byte) (dePresent : Bool) :
    Result.Rel (TxLogAppended s.txLog log) (execConfig baud addr dePresent s)
      (execConfig baud addr dePresent (s.withTxLog log)) :=
  .ite (fun _ => .refused _) fun _ => .ite (fun _ => .refused _) fun _ => .next (.kept rfl)

theorem exec_decodeCommand_txLogAppended (s : State) (log : List Byte) (w : CmdWord) :
    Result.Rel (TxLogAppended s.txLog log) (exec (decodeCommand w) s) (exec (decodeCommand w) (s.withTxLog log)) := by
  obtain ⟨baud, a, d, hw⟩ | ⟨-, hw⟩ | ⟨fc, k, hw⟩ | ⟨fc, l, o, hw⟩ | ⟨n, fc, st, c, hw⟩ | ⟨n, hw⟩ | ⟨n, hw⟩ | hw :=
    decodeCommand_cases w <;> rw [hw]
  · exact execConfig_txLogAppended s log baud a d
  · exact execPoll_txLogAppended s log
  · exact execSendErr_txLogAppended s log fc k
  · exact execSendRsp_txLogAppended s log fc l o
  · exact execMread_txLogAppended s log n fc st c
  · exact execMfetch_txLogAppended s log n
  · exact execCrc_txLogAppended s log n
  · exact .next (.kept rfl)

/-! ### The other kinds of step -/

theorem State.returnStarter_withTxLog : (s.withTxLog log).returnStarter = s.returnStarter.withTxLog log := by
  cases hwho : s.starter with
  | none =>
    have hwho' : (s.withTxLog log).starter = none := hwho
    rw [State.returnStarter, State.returnStarter, hwho, hwho']
  | some who =>
    rw [State.returnStarter_of_some hwho, State.returnStarter_of_some (s := s.withTxLog log) hwho]
    rfl

theorem State.returnStarter_txLog (s : State) : s.returnStarter.txLog = s.txLog := by
  obtain hsame | ⟨p, -, hresp⟩ := s.returnStarter_cases
  · rw [hsame]
  · rw [hresp]
    rfl

/-- The hand-off appends the frame. -/
theorem State.handOff_txLogAppended (s : State) (log : List Byte) :
    Result.Rel (TxLogAppended s.txLog log) s.handOff (s.withTxLog log).handOff := by
  refine .guardBuf rfl (.next ⟨s.bufBytes 0 s.len, State.returnStarter_txLog _, ?_⟩)
  exact congrArg (fun u : State => { u with starter := none })
    (State.returnStarter_withTxLog (s := (s.txWrite (s.bufBytes 0 s.len)).setTxc .active)
      (log := log ++ s.bufBytes 0 s.len))

theorem State.runEvent_txLogAppended (s : State) (log : List Byte) {e : Input} (he : ∀ fifo now, e ≠ .reset fifo now) :
    Result.Rel (TxLogAppended s.txLog log) (s.runEvent e) ((s.withTxLog log).runEvent e) := by
  cases e with
  | command w payload => exact .next (.kept rfl)
  | rxByte b => exact .next (.kept rfl)
  | txDone => exact .ite (fun _ => .next (.kept rfl)) fun _ => .refused _
  | tick d => exact .ite (fun _ => .refused _) fun _ => .next (.kept rfl)
  | reset fifo now => exact absurd rfl (he fifo now)

/-- The same bytes are appended to both records, or a reset empties both. -/
def TxLogUnread (s : State) (log : List Byte) (t t' : State) : Prop :=
  TxLogAppended s.txLog log t t' ∨ (s.headIsReset ∧ t' = t)

theorem State.turnEvent_txLogUnread {e : Input} {rest : List Input} (hin : s.inputs = e :: rest) (log : List Byte) :
    Result.Rel (TxLogUnread s log) (State.runEvent { s with inputs := rest } e)
      (State.runEvent { s.withTxLog log with inputs := rest } e) := by
  by_cases he : ∃ fifo now, e = .reset fifo now
  · obtain ⟨fifo, now, rfl⟩ := he
    exact .next (.inr ⟨⟨fifo, now, rest, hin⟩, rfl⟩)
  · exact (State.runEvent_txLogAppended { s with inputs := rest } log fun fifo now heq => he ⟨fifo, now, heq⟩).mono
      fun _ _ => .inl

theorem step_txLogUnread (s : State) (log : List Byte) :
    Result.Rel (TxLogUnread s log) (step s) (step (s.withTxLog log)) :=
  step_rel (State.microStep_rel rfl rfl rfl rfl (.inl (.kept rfl)) ((s.handOff_txLogAppended log).mono fun _ _ => .inl))
    rfl
    (fun w payload rest => (exec_decodeCommand_txLogAppended (s.accepted payload rest) log w).mono fun _ _ => .inl)
    (fun _ _ ht => State.turnEvent_txLogUnread (State.inputs_of_turn_event ht) log) (.inl (.kept rfl))

/-- Settles O53, by the kinds of step: the hand-off appends the frame, a reset empties the record, and nothing reads it. -/
theorem transmitRecordIsNeverRead : Obligations.TransmitRecordIsNeverRead := by
  unfold Obligations.TransmitRecordIsNeverRead
  intro s log
  have hstep : Result.Rel (TxLogUnread s log) (step s) (step { s with txLog := log }) := step_txLogUnread s log
  generalize step s = r, step { s with txLog := log } = r' at hstep
  cases hstep with
  | next ht =>
    obtain ⟨sent, hlog, rfl⟩ | ⟨hreset, rfl⟩ := ht
    · exact .inl ⟨sent, hlog, rfl⟩
    · exact .inr ⟨hreset, rfl⟩
  | fault f => rfl
  | refused f => rfl

end Sys2Proof.Machine
end

section
/-!
Bytes of the frame buffer at or past `len` are never read (10_state.md R23): two states that differ in such bytes alone take
the same step, to states that again differ in such bytes alone.
-/

namespace Sys2Proof.Machine

/-- A state with another frame buffer. -/
def State.withBuf (s : State) (m : Memory) : State := { s with buf := m }

@[simp] theorem State.withBuf_len (s : State) (m : Memory) : (s.withBuf m).len = s.len := rfl

/-- Two memories with the same content below an address. -/
def Memory.AgreeBelow (n : Nat) (m m' : Memory) : Prop := ∀ i, i < n → Memory.read? m' i = Memory.read? m i

/-- The other state differs in bytes of `buf` at or past `len` alone. -/
def State.SameFrame (s s' : State) : Prop := ∃ m, s' = s.withBuf m ∧ Memory.AgreeBelow s.len s.buf m

/-! ### Writing -/

theorem Memory.AgreeBelow.write {n : Nat} {m m' : Memory} (h : Memory.AgreeBelow n m m') (v : Byte) :
    Memory.AgreeBelow (n + 1) (Memory.write m n v) (Memory.write m' n v) := by
  intro i hi
  rw [Memory.read?_write, Memory.read?_write]
  split_ifs with hlast
  · rfl
  · exact h i (by omega)

theorem Memory.AgreeBelow.writeBytes {n : Nat} {m m' : Memory} (h : Memory.AgreeBelow n m m') (bs : List Byte) :
    Memory.AgreeBelow (n + bs.length) (Memory.writeBytes m n bs) (Memory.writeBytes m' n bs) := by
  induction bs generalizing n m m' with
  | nil => exact h
  | cons b bs ih =>
    rw [List.length_cons, Nat.add_comm bs.length 1, ← Nat.add_assoc]
    exact ih (h.write b)

/-- A built frame overwrites every byte below its end, so that two of them agree there, whatever was in `buf`. -/
theorem State.buildFrame_sameFrame (s : State) (m : Memory) (body : List Byte) :
    (s.buildFrame body).SameFrame ((s.withBuf m).buildFrame body) := by
  refine ⟨((s.withBuf m).buildFrame body).buf, rfl, ?_⟩
  rw [State.buildFrame_buf, State.buildFrame_buf, State.buildFrame_len]
  have hnone : Memory.AgreeBelow 0 s.buf m := nofun
  have hbody := hnone.writeBytes body
  rw [Nat.zero_add] at hbody
  exact hbody.writeBytes [hi8 (crcOutput body), lo8 (crcOutput body)]

theorem State.sendFrame_sameFrame (s : State) (m : Memory) (who : Starter) (body : List Byte) :
    Result.Rel State.SameFrame (s.sendFrame who body) ((s.withBuf m).sendFrame who body) := by
  refine .guardBuf rfl (.next ?_)
  obtain ⟨m', hm', hagree⟩ := s.buildFrame_sameFrame m body
  exact ⟨m', congrArg (State.startSend · who) hm', hagree⟩

variable {s s' : State} {m : Memory}

theorem State.SameFrame.appendByte (h : s.SameFrame s') (b : Byte) : (s.appendByte b).SameFrame (s'.appendByte b) := by
  obtain ⟨m, rfl, hagree⟩ := h
  by_cases hroom : s.len < s.params.capacity
  · rw [State.appendByte_of_room s b hroom, State.appendByte_of_room (s.withBuf m) b hroom]
    exact ⟨_, rfl, hagree.write b⟩
  · rw [State.appendByte_of_full s b hroom, State.appendByte_of_full (s.withBuf m) b hroom]
    exact ⟨m, rfl, hagree⟩

theorem State.SameFrame.drain (h : s.SameFrame s') (bs : List Byte) : (s.drain bs).SameFrame (s'.drain bs) := by
  induction bs generalizing s s' with
  | nil =>
    obtain ⟨m, rfl, hagree⟩ := h
    exact ⟨m, rfl, hagree⟩
  | cons b bs ih =>
    obtain ⟨m, rfl, hagree⟩ := h
    have hrest : State.SameFrame { s with rxFifo := bs } { s.withBuf m with rxFifo := bs } := ⟨m, rfl, hagree⟩
    exact ih (hrest.appendByte b)

/-! ### Reading below `len` -/

section
variable (hagree : Memory.AgreeBelow s.len s.buf m)
include hagree

theorem State.bufByte_withBuf {i : Nat} (hi : i < s.len) : (s.withBuf m).bufByte i = s.bufByte i := by
  have h : Memory.read? (s.withBuf m).buf i = s.buf.read? i := hagree i hi
  rw [State.bufByte, State.bufByte, h]

theorem State.bufBytes_withBuf {a n : Nat} (hn : a + n ≤ s.len) : (s.withBuf m).bufBytes a n = s.bufBytes a n :=
  State.bufBytes_congr s _ fun _ _ hi => State.bufByte_withBuf hagree (by omega)

theorem State.bufWord_withBuf {i : Nat} (hi : i + 1 < s.len) : (s.withBuf m).bufWord i = s.bufWord i := by
  rw [State.bufWord, State.bufWord, State.bufByte_withBuf hagree (by omega), State.bufByte_withBuf hagree hi]

theorem State.crc16_withBuf {n : Nat} (hn : n ≤ s.len) : (s.withBuf m).crc16 n = s.crc16 n := by
  rw [State.crc16, State.crc16, State.bufBytes_withBuf hagree (by omega)]

theorem State.claimedCrc_withBuf (hlen : 2 ≤ s.len) : (s.withBuf m).claimedCrc = s.claimedCrc := by
  rw [State.claimedCrc, State.claimedCrc, State.withBuf_len, State.bufWord_withBuf hagree (by omega)]

end

/-! ### POLL -/

theorem State.pollSending_sameFrame (hagree : Memory.AgreeBelow s.len s.buf m) :
    s.pollSending.SameFrame (s.withBuf m).pollSending := by
  cases hdone : s.txComplete with
  | false =>
    rw [State.pollSending_of_incomplete hdone, State.pollSending_of_incomplete (s := s.withBuf m) hdone]
    exact ⟨m, rfl, hagree⟩
  | true =>
    rw [State.pollSending_of_complete hdone, State.pollSending_of_complete (s := s.withBuf m) hdone]
    exact ⟨m, rfl, hagree⟩

/-- A new frame begins with `len = 0`, and a frame being received goes on at `len`. -/
theorem State.receiving_sameFrame (hagree : Memory.AgreeBelow s.len s.buf m) :
    s.receiving.SameFrame (s.withBuf m).receiving := by
  rw [State.receiving_eq, State.receiving_eq]
  refine ⟨m, rfl, fun i hi => hagree i ?_⟩
  dsimp only at hi
  split_ifs at hi with hrx
  · exact hi
  · exact absurd hi (Nat.not_lt_zero i)

theorem State.pollReceive_sameFrame (hagree : Memory.AgreeBelow s.len s.buf m) :
    s.pollReceive.SameFrame (s.withBuf m).pollReceive := by
  obtain ⟨m', hm', hagree'⟩ := (State.receiving_sameFrame hagree).drain s.rxFifo
  have hfifo : (s.withBuf m).rxFifo = s.rxFifo := rfl
  rw [State.pollReceive_eq_drain, State.pollReceive_eq_drain, hfifo, hm']
  exact ⟨m', rfl, hagree'⟩

/-- The dispatch of a frame of 7 bytes at least reads its bytes 0 to 5. -/
theorem State.dispatchFrame_sameFrame (hagree : Memory.AgreeBelow s.len s.buf m) (hlen : 7 ≤ s.len) :
    Result.Rel State.SameFrame s.dispatchFrame (s.withBuf m).dispatchFrame := by
  have h0 : (s.withBuf m).bufByte 0 = s.bufByte 0 := State.bufByte_withBuf hagree (by omega)
  have h1 : (s.withBuf m).bufByte 1 = s.bufByte 1 := State.bufByte_withBuf hagree (by omega)
  have hcase : (s.withBuf m).wireCase (s.bufByte 0) = s.wireCase (s.bufByte 0) := rfl
  have hrequest : ∀ f, Result.Rel State.SameFrame (s.receiveRequest f) ((s.withBuf m).receiveRequest f) := by
    intro f
    refine .guardBuf rfl (.next ?_)
    rw [State.bufWord_withBuf hagree (by omega), State.bufWord_withBuf hagree (by omega)]
    exact ⟨m, rfl, hagree⟩
  unfold State.dispatchFrame
  dsimp only
  rw [h0, h1, hcase]
  cases s.wireCase (s.bufByte 0) with
  | own =>
    exact .ite (fun _ => hrequest 3#8) fun _ => .ite (fun _ => hrequest 4#8) fun _ =>
      State.sendFrame_sameFrame (s.setRespAvail false) m .poll _
  | awaited =>
    exact .ite (fun _ => .next ⟨m, rfl, hagree⟩) fun _ => .ite (fun _ => .next ⟨m, rfl, hagree⟩) fun _ =>
      .ite (fun _ => .next ⟨m, rfl, hagree⟩) fun _ => .next ⟨m, rfl, hagree⟩
  | foreign => exact .next ⟨m, rfl, hagree⟩

theorem State.seven_le_minLen (s : State) : 7 ≤ s.minLen := by
  unfold State.minLen
  split_ifs <;> decide

theorem State.validate_sameFrame (hagree : Memory.AgreeBelow s.len s.buf m) :
    Result.Rel State.SameFrame s.validate (s.withBuf m).validate := by
  refine .ite (fun _ => .next ⟨m, rfl, hagree⟩) fun hmin => ?_
  have hlen : 7 ≤ s.len := s.seven_le_minLen.trans (Nat.not_lt.1 hmin)
  have hdispatch := State.dispatchFrame_sameFrame hagree hlen
  rw [State.claimedCrc_withBuf hagree (by omega), State.withBuf_len,
    State.crc16_withBuf hagree (Nat.sub_le _ _)]
  exact .guardBuf rfl (.ite (fun _ => .next ⟨m, rfl, hagree⟩) fun _ => hdispatch)

theorem execPoll_sameFrame (hagree : Memory.AgreeBelow s.len s.buf m) :
    Result.Rel State.SameFrame (execPoll s) (execPoll (s.withBuf m)) := by
  refine .ite (fun _ => .refused _) fun _ => .ite (fun _ => .next (State.pollSending_sameFrame hagree)) fun _ =>
    .ite (fun _ => .next ⟨m, rfl, hagree⟩) fun _ => .ite (fun _ => ?silent) fun _ =>
    .next (State.pollReceive_sameFrame hagree)
  exact .ite (fun _ => .next ⟨m, rfl, hagree⟩) fun _ => .ite (fun _ => .next ⟨m, rfl, hagree⟩) fun _ =>
    .ite (fun _ => .next ⟨m, rfl, hagree⟩) fun _ => State.validate_sameFrame (s := s.endReceive) hagree

/-! ### The other commands -/

theorem State.slavePrecheck_sameFrame (hagree : Memory.AgreeBelow s.len s.buf m) {k k' : Result}
    (hk : Result.Rel State.SameFrame k k') :
    Result.Rel State.SameFrame (s.slavePrecheck k) ((s.withBuf m).slavePrecheck k') :=
  .ite (fun _ => .refused _) fun _ => .ite (fun _ => .next ⟨m, rfl, hagree⟩) fun _ =>
    .ite (fun _ => .refused _) fun _ => hk

theorem execSendErr_sameFrame (hagree : Memory.AgreeBelow s.len s.buf m) (fc kind : Byte) :
    Result.Rel State.SameFrame (execSendErr fc kind s) (execSendErr fc kind (s.withBuf m)) := by
  refine State.slavePrecheck_sameFrame hagree ?_
  cases exceptionByte kind with
  | none => exact .next ⟨m, rfl, hagree⟩
  | some x => exact State.sendFrame_sameFrame (s.setRespAvail false) m .sendErr _

theorem execSendRsp_sameFrame (hagree : Memory.AgreeBelow s.len s.buf m) (fc length : Byte) (offset : Word16) :
    Result.Rel State.SameFrame (execSendRsp fc length offset s) (execSendRsp fc length offset (s.withBuf m)) :=
  State.slavePrecheck_sameFrame hagree <| .ite (fun _ => .next ⟨m, rfl, hagree⟩) fun _ =>
    .ite (fun _ => .next ⟨m, rfl, hagree⟩) fun _ =>
    State.sendFrame_sameFrame (s.draw.setRespAvail false) m .sendRsp _

theorem execMread_sameFrame (hagree : Memory.AgreeBelow s.len s.buf m) (node fc : Byte) (start count : Word16) :
    Result.Rel State.SameFrame (execMread node fc start count s) (execMread node fc start count (s.withBuf m)) :=
  .ite (fun _ => .refused _) fun _ => .ite (fun _ => .next ⟨m, rfl, hagree⟩) fun _ =>
    State.sendFrame_sameFrame (s.rxFlush.setMarker node) m .mread _

/-- MFETCH reads an available response, which has 7 bytes at least: its byte 2 and its payload. -/
theorem execMfetch_sameFrame (hagree : Memory.AgreeBelow s.len s.buf m) (hresp : s.respAvail = true → 7 ≤ s.len)
    (n : Word16) : Result.Rel State.SameFrame (execMfetch n s) (execMfetch n (s.withBuf m)) := by
  refine .ite (fun _ => .refused _) fun _ => .ite (fun _ => .refused _) fun _ =>
    .ite (fun _ => .next ⟨m, rfl, hagree⟩) fun havail => ?_
  have hlen : 7 ≤ s.len := hresp (Bool.not_eq_false _ ▸ havail)
  dsimp only
  rw [State.bufByte_withBuf hagree (by omega), State.withBuf_len,
    State.bufBytes_withBuf hagree (by omega)]
  exact .guardBuf rfl (.ite (fun _ => .next ⟨m, rfl, hagree⟩) fun _ => .next ⟨m, rfl, hagree⟩)

theorem execCrc_sameFrame (hagree : Memory.AgreeBelow s.len s.buf m) (n : Word16) :
    Result.Rel State.SameFrame (execCrc n s) (execCrc n (s.withBuf m)) := by
  refine .ite (fun _ => .refused _) fun _ => .ite (fun _ => .refused _) fun _ => .ite (fun _ => .refused _) fun hn =>
    .guardBuf rfl (.next ?_)
  rw [State.crc16_withBuf hagree (Nat.not_lt.1 hn)]
  exact ⟨m, rfl, hagree⟩

/-- CONFIG leaves no byte below `len`. -/
theorem execConfig_sameFrame (s : State) (m : Memory) (baud : BitVec 32) (addr : Byte) (dePresent : Bool) :
    Result.Rel State.SameFrame (execConfig baud addr dePresent s) (execConfig baud addr dePresent (s.withBuf m)) :=
  .ite (fun _ => .refused _) fun _ => .ite (fun _ => .refused _) fun _ => .next ⟨m, rfl, nofun⟩

theorem exec_decodeCommand_sameFrame (hagree : Memory.AgreeBelow s.len s.buf m)
    (hresp : s.respAvail = true → 7 ≤ s.len) (w : CmdWord) :
    Result.Rel State.SameFrame (exec (decodeCommand w) s) (exec (decodeCommand w) (s.withBuf m)) := by
  obtain ⟨baud, a, d, hw⟩ | ⟨-, hw⟩ | ⟨fc, k, hw⟩ | ⟨fc, l, o, hw⟩ | ⟨n, fc, st, c, hw⟩ | ⟨n, hw⟩ | ⟨n, hw⟩ | hw :=
    decodeCommand_cases w <;> rw [hw]
  · exact execConfig_sameFrame s m baud a d
  · exact execPoll_sameFrame hagree
  · exact execSendErr_sameFrame hagree fc k
  · exact execSendRsp_sameFrame hagree fc l o
  · exact execMread_sameFrame hagree n fc st c
  · exact execMfetch_sameFrame hagree hresp n
  · exact execCrc_sameFrame hagree n
  · exact .next ⟨m, rfl, hagree⟩

/-! ### The other kinds of step -/

theorem State.returnStarter_sameFrame (hagree : Memory.AgreeBelow s.len s.buf m) :
    s.returnStarter.SameFrame (s.withBuf m).returnStarter := by
  cases hwho : s.starter with
  | none =>
    have hwho' : (s.withBuf m).starter = none := hwho
    rw [State.returnStarter, State.returnStarter, hwho, hwho']
    exact ⟨m, rfl, hagree⟩
  | some who =>
    rw [State.returnStarter_of_some hwho, State.returnStarter_of_some (s := s.withBuf m) hwho]
    exact ⟨m, rfl, hagree⟩

/-- The hand-off reads the frame `buf[0..len)`. -/
theorem State.handOff_sameFrame (hagree : Memory.AgreeBelow s.len s.buf m) :
    Result.Rel State.SameFrame s.handOff (s.withBuf m).handOff := by
  refine .guardBuf rfl (.next ?_)
  rw [State.withBuf_len, State.bufBytes_withBuf hagree (by omega)]
  obtain ⟨m', hm', hagree'⟩ :=
    State.returnStarter_sameFrame (s := (s.txWrite (s.bufBytes 0 s.len)).setTxc .active) hagree
  exact ⟨m', congrArg (fun u : State => { u with starter := none }) hm', hagree'⟩

theorem State.runEvent_sameFrame (hagree : Memory.AgreeBelow s.len s.buf m) (e : Input) :
    Result.Rel State.SameFrame (s.runEvent e) ((s.withBuf m).runEvent e) := by
  cases e with
  | command w payload => exact .next ⟨m, rfl, hagree⟩
  | rxByte b => exact .next ⟨m, rfl, hagree⟩
  | txDone => exact .ite (fun _ => .next ⟨m, rfl, hagree⟩) fun _ => .refused _
  | tick d => exact .ite (fun _ => .refused _) fun _ => .next ⟨m, rfl, hagree⟩
  | reset fifo now => exact .next ⟨_, rfl, nofun⟩

theorem step_sameFrame (hagree : Memory.AgreeBelow s.len s.buf m) (hresp : s.respAvail = true → 7 ≤ s.len) :
    Result.Rel State.SameFrame (step s) (step (s.withBuf m)) :=
  step_rel (State.microStep_rel rfl rfl rfl rfl ⟨m, rfl, hagree⟩ (State.handOff_sameFrame hagree)) rfl
    (fun w payload rest => exec_decodeCommand_sameFrame (s := s.accepted payload rest) hagree hresp w)
    (fun e rest _ => State.runEvent_sameFrame (s := { s with inputs := rest }) hagree e) ⟨m, rfl, hagree⟩

/-- Settles O54, by the kinds of step; of the invariant it needs that an available response has 7 bytes. -/
theorem staleBufferBytesAreNeverRead : Obligations.StaleBufferBytesAreNeverRead := by
  unfold Obligations.StaleBufferBytesAreNeverRead
  intro s other hinv hagree
  have hstep : Result.Rel State.SameFrame (step s) (step { s with buf := other }) := step_sameFrame hagree hinv.respLen
  generalize step s = r, step { s with buf := other } = r' at hstep
  cases hstep with
  | next ht =>
    obtain ⟨m, rfl, hm⟩ := ht
    exact ⟨m, rfl, hm⟩
  | fault f => rfl
  | refused f => rfl

end Sys2Proof.Machine
end
